-- ==== Sys2Proof/Word.lean ====
section
/-! DEFINITION. The widths of the block's values (00_scope.md rules R6, R8): every value is an unsigned
number of the width its name carries, and there is no sign extension anywhere. -/

namespace Sys2Proof

/-- A V register, a timer, a memory cell, an `nn` immediate: 8 bits (R8). -/
abbrev Byte := BitVec 8

/-- I, PC, a stack entry, an opcode: 16 bits (R8). -/
abbrev Word := BitVec 16

/-- A register number `x` or `y`, a row count `n`, a key number: 4 bits (R8). -/
abbrev Nibble := BitVec 4

/-- The immediate `nnn`: 12 bits (R8). -/
abbrev Addr := BitVec 12

end Sys2Proof
end

