-- ==== Sys2Proof/Syntax.lean ====
section
/-! DEFINITION. The 35 instructions of the block, one constructor for each row of spec/opcode_table.json
(30_encoding.md rules R62, R66). An operand has the width of its field, so every value of an operand type can be encoded. -/

namespace Sys2Proof

/-- One instruction. The constructors stand in the order of spec/opcode_table.json. -/
inductive Instr where
  /-- 00E0 CLS (R80). -/
  | cls
  /-- 00EE RET (R81). -/
  | ret
  /-- 0NNN SYS (R82). -/
  | sys (nnn : Addr)
  /-- 1NNN JP (R83). -/
  | jp (nnn : Addr)
  /-- 2NNN CALL (R84). -/
  | call (nnn : Addr)
  /-- 3XNN SE Vx, nn (R90). -/
  | seImm (x : Nibble) (nn : Byte)
  /-- 4XNN SNE Vx, nn (R91). -/
  | sneImm (x : Nibble) (nn : Byte)
  /-- 5XY0 SE Vx, Vy (R92). -/
  | seReg (x y : Nibble)
  /-- 6XNN LD Vx, nn (R93). -/
  | ldImm (x : Nibble) (nn : Byte)
  /-- 7XNN ADD Vx, nn (R94). -/
  | addImm (x : Nibble) (nn : Byte)
  /-- 8XY0 LD Vx, Vy (R101). -/
  | ldReg (x y : Nibble)
  /-- 8XY1 OR Vx, Vy (R102). -/
  | orReg (x y : Nibble)
  /-- 8XY2 AND Vx, Vy (R103). -/
  | andReg (x y : Nibble)
  /-- 8XY3 XOR Vx, Vy (R104). -/
  | xorReg (x y : Nibble)
  /-- 8XY4 ADD Vx, Vy (R105). -/
  | addReg (x y : Nibble)
  /-- 8XY5 SUB Vx, Vy (R106). -/
  | subReg (x y : Nibble)
  /-- 8XY6 SHR Vx (R107). The field `y` is encoded and ignored. -/
  | shr (x y : Nibble)
  /-- 8XY7 SUBN Vx, Vy (R108). -/
  | subnReg (x y : Nibble)
  /-- 8XYE SHL Vx (R109). The field `y` is encoded and ignored. -/
  | shl (x y : Nibble)
  /-- 9XY0 SNE Vx, Vy (R110). -/
  | sneReg (x y : Nibble)
  /-- ANNN LD I, nnn (R111). -/
  | ldI (nnn : Addr)
  /-- BNNN JP V0, nnn (R112). -/
  | jpV0 (nnn : Addr)
  /-- CXNN RND Vx, nn (R113). -/
  | rnd (x : Nibble) (nn : Byte)
  /-- DXYN DRW Vx, Vy, n (R114). -/
  | drw (x y n : Nibble)
  /-- EX9E SKP Vx (R120). -/
  | skp (x : Nibble)
  /-- EXA1 SKNP Vx (R121). -/
  | sknp (x : Nibble)
  /-- FX07 LD Vx, DT (R122). -/
  | ldVxDt (x : Nibble)
  /-- FX0A LD Vx, K (R123). -/
  | ldVxK (x : Nibble)
  /-- FX15 LD DT, Vx (R124). -/
  | ldDtVx (x : Nibble)
  /-- FX18 LD ST, Vx (R125). -/
  | ldStVx (x : Nibble)
  /-- FX1E ADD I, Vx (R126). -/
  | addI (x : Nibble)
  /-- FX29 LD F, Vx (R127). -/
  | ldF (x : Nibble)
  /-- FX33 LD B, Vx (R128). -/
  | ldB (x : Nibble)
  /-- FX55 LD [I], Vx (R129). -/
  | storeRegs (x : Nibble)
  /-- FX65 LD Vx, [I] (R130). -/
  | loadRegs (x : Nibble)
deriving DecidableEq, Repr

end Sys2Proof
end

