-- ==== Sys2Proof/Decode.lean ====
section
/-! DEFINITION. The decoder, total on every word and on any bytes, and the encoder (30_encoding.md rules R60 to R70). -/

namespace Sys2Proof

/-- Why bytes are no instruction. -/
inductive DecodeError where
  /-- The word is none of the 35 instructions (R67). The block reports it and goes on (R68): it is no fault. -/
  | unrecognized (op : Word)
  /-- Fewer than two bytes are given, and an instruction is always two (R60). -/
  | truncated (available : Nat)
deriving DecidableEq, Repr

/-- `f = op[15:12]`, the family (R61). -/
def opFamily (op : Word) : Nibble := op.extractLsb' 12 4
/-- `x = op[11:8]` (R61). -/
def opX (op : Word) : Nibble := op.extractLsb' 8 4
/-- `y = op[7:4]` (R61). -/
def opY (op : Word) : Nibble := op.extractLsb' 4 4
/-- `n = op[3:0]` (R61). -/
def opN (op : Word) : Nibble := op.extractLsb' 0 4
/-- `nn = op[7:0]` (R61). -/
def opNN (op : Word) : Byte := op.extractLsb' 0 8
/-- `nnn = op[11:0]` (R61). -/
def opNNN (op : Word) : Addr := op.extractLsb' 0 12

/-- Family 0x0: CLS and RET are whole words and come first; every other word is SYS (R65, R70). -/
def decodeFamily0 (op : Word) : Except DecodeError Instr :=
  if op = 0x00E0#16 then .ok .cls
  else if op = 0x00EE#16 then .ok .ret
  else .ok (.sys (opNNN op))

/-- Families 0x5 and 0x9: the low nibble must be 0, as the table's patterns 5XY0 and 9XY0 require (R65; 90_conflicts.md C2). -/
def decodeLowNibbleZero (op : Word) (i : Instr) : Except DecodeError Instr :=
  if opN op = 0x0#4 then .ok i else .error (.unrecognized op)

/-- Family 0x8, by the low nibble (R65). -/
def decodeFamily8 (op : Word) : Except DecodeError Instr :=
  let x := opX op
  let y := opY op
  let n := opN op
  if n = 0x0#4 then .ok (.ldReg x y)
  else if n = 0x1#4 then .ok (.orReg x y)
  else if n = 0x2#4 then .ok (.andReg x y)
  else if n = 0x3#4 then .ok (.xorReg x y)
  else if n = 0x4#4 then .ok (.addReg x y)
  else if n = 0x5#4 then .ok (.subReg x y)
  else if n = 0x6#4 then .ok (.shr x y)
  else if n = 0x7#4 then .ok (.subnReg x y)
  else if n = 0xE#4 then .ok (.shl x y)
  else .error (.unrecognized op)

/-- Family 0xE, by the low byte (R65). -/
def decodeFamilyE (op : Word) : Except DecodeError Instr :=
  if opNN op = 0x9E#8 then .ok (.skp (opX op))
  else if opNN op = 0xA1#8 then .ok (.sknp (opX op))
  else .error (.unrecognized op)

/-- Family 0xF, by the low byte (R65). -/
def decodeFamilyF (op : Word) : Except DecodeError Instr :=
  let x := opX op
  let nn := opNN op
  if nn = 0x07#8 then .ok (.ldVxDt x)
  else if nn = 0x0A#8 then .ok (.ldVxK x)
  else if nn = 0x15#8 then .ok (.ldDtVx x)
  else if nn = 0x18#8 then .ok (.ldStVx x)
  else if nn = 0x1E#8 then .ok (.addI x)
  else if nn = 0x29#8 then .ok (.ldF x)
  else if nn = 0x33#8 then .ok (.ldB x)
  else if nn = 0x55#8 then .ok (.storeRegs x)
  else if nn = 0x65#8 then .ok (.loadRegs x)
  else .error (.unrecognized op)

/-- `Decode(op)`: it reads nothing but the word, and is total (R65). -/
def decodeWord (op : Word) : Except DecodeError Instr :=
  let f := opFamily op
  if f = 0x0#4 then decodeFamily0 op
  else if f = 0x1#4 then .ok (.jp (opNNN op))
  else if f = 0x2#4 then .ok (.call (opNNN op))
  else if f = 0x3#4 then .ok (.seImm (opX op) (opNN op))
  else if f = 0x4#4 then .ok (.sneImm (opX op) (opNN op))
  else if f = 0x5#4 then decodeLowNibbleZero op (.seReg (opX op) (opY op))
  else if f = 0x6#4 then .ok (.ldImm (opX op) (opNN op))
  else if f = 0x7#4 then .ok (.addImm (opX op) (opNN op))
  else if f = 0x8#4 then decodeFamily8 op
  else if f = 0x9#4 then decodeLowNibbleZero op (.sneReg (opX op) (opY op))
  else if f = 0xA#4 then .ok (.ldI (opNNN op))
  else if f = 0xB#4 then .ok (.jpV0 (opNNN op))
  else if f = 0xC#4 then .ok (.rnd (opX op) (opNN op))
  else if f = 0xD#4 then .ok (.drw (opX op) (opY op) (opN op))
  else if f = 0xE#4 then decodeFamilyE op
  else decodeFamilyF op

/-- Two bytes make a word, the first being the high one (20_memory.md rule R47; 30_encoding.md rule R64). -/
def wordOfBytes (hi lo : Byte) : Word := hi ++ lo
/-- The high byte of a word, which stands at the lower address (R47). -/
def highByte (w : Word) : Byte := w.extractLsb' 8 8
/-- The low byte of a word (R47). -/
def lowByte (w : Word) : Byte := w.extractLsb' 0 8

/-- Decode the first instruction of any bytes, and give the bytes after it (R60: always exactly two). -/
def decodeBytes : List Byte → Except DecodeError (Instr × List Byte)
  | hi :: lo :: rest =>
    match decodeWord (wordOfBytes hi lo) with
    | .ok i => .ok (i, rest)
    | .error e => .error e
  | bs => .error (.truncated bs.length)

/-- The word of an instruction, by the formats of R62 and the patterns of R66. -/
def encode : Instr → Word
  | .cls => 0x00E0#16
  | .ret => 0x00EE#16
  | .sys nnn => 0x0#4 ++ nnn
  | .jp nnn => 0x1#4 ++ nnn
  | .call nnn => 0x2#4 ++ nnn
  | .seImm x nn => 0x3#4 ++ x ++ nn
  | .sneImm x nn => 0x4#4 ++ x ++ nn
  | .seReg x y => 0x5#4 ++ x ++ y ++ 0x0#4
  | .ldImm x nn => 0x6#4 ++ x ++ nn
  | .addImm x nn => 0x7#4 ++ x ++ nn
  | .ldReg x y => 0x8#4 ++ x ++ y ++ 0x0#4
  | .orReg x y => 0x8#4 ++ x ++ y ++ 0x1#4
  | .andReg x y => 0x8#4 ++ x ++ y ++ 0x2#4
  | .xorReg x y => 0x8#4 ++ x ++ y ++ 0x3#4
  | .addReg x y => 0x8#4 ++ x ++ y ++ 0x4#4
  | .subReg x y => 0x8#4 ++ x ++ y ++ 0x5#4
  | .shr x y => 0x8#4 ++ x ++ y ++ 0x6#4
  | .subnReg x y => 0x8#4 ++ x ++ y ++ 0x7#4
  | .shl x y => 0x8#4 ++ x ++ y ++ 0xE#4
  | .sneReg x y => 0x9#4 ++ x ++ y ++ 0x0#4
  | .ldI nnn => 0xA#4 ++ nnn
  | .jpV0 nnn => 0xB#4 ++ nnn
  | .rnd x nn => 0xC#4 ++ x ++ nn
  | .drw x y n => 0xD#4 ++ x ++ y ++ n
  | .skp x => 0xE#4 ++ x ++ 0x9E#8
  | .sknp x => 0xE#4 ++ x ++ 0xA1#8
  | .ldVxDt x => 0xF#4 ++ x ++ 0x07#8
  | .ldVxK x => 0xF#4 ++ x ++ 0x0A#8
  | .ldDtVx x => 0xF#4 ++ x ++ 0x15#8
  | .ldStVx x => 0xF#4 ++ x ++ 0x18#8
  | .addI x => 0xF#4 ++ x ++ 0x1E#8
  | .ldF x => 0xF#4 ++ x ++ 0x29#8
  | .ldB x => 0xF#4 ++ x ++ 0x33#8
  | .storeRegs x => 0xF#4 ++ x ++ 0x55#8
  | .loadRegs x => 0xF#4 ++ x ++ 0x65#8

/-- The two bytes of an instruction as memory holds them, the lower address first (R47). -/
def encodeBytes (i : Instr) : List Byte := [highByte (encode i), lowByte (encode i)]

/-- The 16-bit word that the table's numbering gives as the number `w` of `nbits` bits: every bit above is 0. -/
def tableWord (nbits w : Nat) : Word := BitVec.ofNat 16 (w % 2 ^ min nbits 16)

/-- The instruction the decoder reads from the bits `w`, numbered as spec/opcode_table.json numbers them: bit 0 is the word's
least significant bit. The word is laid out as the block stores it, high byte first (R47), and decoded from those bytes. -/
def decodeTableWord (nbits w : Nat) : Option Instr :=
  match decodeBytes [highByte (tableWord nbits w), lowByte (tableWord nbits w)] with
  | .ok (i, _) => some i
  | .error _ => none

end Sys2Proof
end

