-- ==== Sys2Proof/Machine/Font.lean ====
section
/-! DEFINITION. The font set: where it stands, and the default bytes of the parameter FONT_TABLE
(70_reset_and_hazards.md rule R172; log entry 3). -/

namespace Sys2Proof.Machine

/-- `FONT_BASE` (00_scope.md rule R6). -/
def fontBase : Nat := 0x050

/-- `GLYPH_BYTES` (R6). -/
def glyphBytes : Nat := 5

/-- The font's 80 bytes: 16 glyphs of 5 bytes each (R172). -/
def fontBytes : Nat := 80

/-- The parameter FONT_TABLE: 80 bytes (R6, R172). -/
abbrev FontTable := Vector Byte 80

/-- Glyphs 0 to 3 of the default (R172, G1). -/
def glyphs0to3 : List Byte :=
  [0xF0, 0x90, 0x90, 0x90, 0xF0] ++ [0x20, 0x60, 0x20, 0x20, 0x70] ++
  [0xF0, 0x10, 0xF0, 0x80, 0xF0] ++ [0xF0, 0x10, 0xF0, 0x10, 0xF0]

/-- Glyphs 4 to 7 of the default (R172, G1). -/
def glyphs4to7 : List Byte :=
  [0x90, 0x90, 0xF0, 0x10, 0x10] ++ [0xF0, 0x80, 0xF0, 0x10, 0xF0] ++
  [0xF0, 0x80, 0xF0, 0x90, 0xF0] ++ [0xF0, 0x10, 0x20, 0x40, 0x40]

/-- Glyphs 8 to B of the default (R172, G1). -/
def glyphs8toB : List Byte :=
  [0xF0, 0x90, 0xF0, 0x90, 0xF0] ++ [0xF0, 0x90, 0xF0, 0x10, 0xF0] ++
  [0xF0, 0x90, 0xF0, 0x90, 0x90] ++ [0xE0, 0x90, 0xE0, 0x90, 0xE0]

/-- Glyphs C to F of the default (R172, G1). -/
def glyphsCtoF : List Byte :=
  [0xF0, 0x80, 0x80, 0x80, 0xF0] ++ [0xE0, 0x90, 0x90, 0x90, 0xE0] ++
  [0xF0, 0x80, 0xF0, 0x80, 0xF0] ++ [0xF0, 0x80, 0xF0, 0x80, 0x80]

/-- FONT_TABLE's default, the customary font. PRESUMED: the source does not list the bytes (R172, D13). -/
def defaultFont : FontTable :=
  ⟨(glyphs0to3 ++ glyphs4to7 ++ glyphs8toB ++ glyphsCtoF).toArray, rfl⟩

end Sys2Proof.Machine
end

