-- ==== Sys2Proof/Config.lean ====
section
/-! DEFINITION. What the implementation fixes (00_scope.md rule R6) and the free values: constants with no
body, so that nothing can evaluate them and no proof can rest on what they are. -/

namespace Sys2Proof.Config

/-- `MEM_SIZE`: addresses 0x000 to 0xFFF exist (R6, R40). -/
def memSize : Nat := 4096

/-- `PROG_BASE`: the reset PC and the load offset (R6, R42). -/
def progBase : Nat := 0x200

/-- `PROG_MAX`: the most bytes a program image may have (R6, R175). -/
def progMax : Nat := 3584

/-- `MEM_INIT(a)`: what cell `a` outside the font holds after reset. The spec leaves it OPEN (R173, D11, U6), so it is a
free value: any byte at each address, fixed for the machine (log entry 1). -/
opaque memInit : Nat → Byte

/-- `KEY` of the cycle with this number, where the host's list of inputs says nothing (R157, R158: "any key pattern";
log entry 2). -/
opaque freeKeys : Nat → BitVec 16

/-- `KEY_EVENT` of the cycle with this number, where the host's list of inputs says nothing (R157, R158: "any event
sequence"; log entry 2). -/
opaque freeKeyEvent : Nat → Option Nibble

/-- `RAND` of the cycle with this number, where the host's list of inputs says nothing (R113, D17, U5: "any value";
log entry 2). -/
opaque freeRand : Nat → Byte

end Sys2Proof.Config
end

