-- ==== Sys2Proof/Machine/State.lean ====
section
/-! DEFINITION. The machine's state as plain data (10_state.md), its fault and refusal reasons, and the state right after
reset (70_reset_and_hazards.md rules R170, R171). -/

namespace Sys2Proof.Machine

/-- EXEC, the execution state (10_state.md rule R30). -/
inductive Exec where
  /-- `RUN`: the next step fetches and executes the instruction at PC. -/
  | run
  /-- `WAITKEY(x)`: FX0A at PC waits for a key press, to be stored in V[x]. -/
  | waitKey (x : Nibble)
  /-- `HALT`: a fatal error was raised; FAULT holds it. -/
  | halt
deriving DecidableEq, Repr

/-- The cause codes of a fatal error (60_exceptions.md rule R141). Codes 6 and 7 are never written (R31). -/
inductive FaultCode where
  /-- 0: none, the reset value. -/
  | none
  /-- 1: the fetch of a step in RUN, with PC or PC + 1 outside memory. -/
  | fetchOutOfBounds
  /-- 2: 2NNN with SP = 16. -/
  | stackOverflow
  /-- 3: 00EE with SP = 0. -/
  | stackUnderflow
  /-- 4: DXYN, FX33, FX55, FX65 with an address of 4096 or more. -/
  | memoryOutOfBounds
  /-- 5: EX9E, EXA1 with V[x] above 15. -/
  | keyIndexOutOfRange
deriving DecidableEq, Repr

/-- FAULT, the fault record (10_state.md rule R31). -/
structure FaultRecord where
  /-- `FAULT.code`, 3 bits as the host reads it (`faultCodeBits`). -/
  code : FaultCode
  /-- `FAULT.pc`: PC of the faulting step. -/
  pc : Word
  /-- `FAULT.opcode`: the opcode being executed; 0x0000 for FetchOutOfBounds. -/
  opcode : Word
  /-- `FAULT.info`, 17 bits: the lowest offending address, or V[x], or 0. -/
  info : BitVec 17
deriving DecidableEq, Repr

/-- FAULT at reset: code 0, pc 0, opcode 0, info 0 (R171). -/
def FaultRecord.clear : FaultRecord := { code := .none, pc := 0, opcode := 0, info := 0 }

/-- What the DIAG output carries for an unrecognised opcode: its address and its word (60_exceptions.md rule R145). -/
structure Diag where
  pc : Word
  opcode : Word
deriving DecidableEq, Repr

/-- The inputs of one cycle, sampled once at its start (60_exceptions.md rule R157; 10_state.md rule R33). -/
structure CycleInput where
  /-- `KEY[k]` is bit k: key k is pressed. -/
  keys : BitVec 16
  /-- `KEY_EVENT`: none, or press(k). -/
  event : Option Nibble
  /-- `RAND`: the random byte of this cycle. -/
  rand : Byte
deriving DecidableEq, Repr

/-- FB: row r is entry r, and column c of that row is bit c (10_state.md rule R28). -/
abbrev Framebuffer := Vector (BitVec 64) 32

/-- MEM: the cells that a write has given a value, at strictly rising addresses (20_memory.md rule R40; log entry 1). -/
abbrev Memory := List Host.Cell

/-- The state of the block (10_state.md), and after it what the model adds for the block's interface (R157, R158). -/
structure State where
  /-- V[0..15] (R20). -/
  v : Vector Byte 16
  /-- I (R22). -/
  i : Word
  /-- PC (R23). -/
  pc : Word
  /-- STACK[0..15] (R24). -/
  stack : Vector Word 16
  /-- SP: the number of entries in use, 0 to 16; 17 to 31 are never held (R25, R32). -/
  sp : Fin 17
  /-- DT (R26). -/
  dt : Byte
  /-- ST (R27). -/
  st : Byte
  /-- FB (R28). -/
  fb : Framebuffer
  /-- DIRTY (R29). -/
  dirty : Bool
  /-- EXEC (R30). -/
  execState : Exec
  /-- FAULT (R31). -/
  fault : FaultRecord
  /-- MEM (R40). -/
  mem : Memory
  /-- The STOP_TONE output of the last cycle (R157). The model's own field. -/
  stopTone : Bool
  /-- The DIAG output of the last cycle (R157). The model's own field. -/
  diag : Option Diag
  /-- What the host presents to the coming cycles, the next cycle's first (R158). The model's own field (log entry 2). -/
  inputs : List CycleInput
  /-- The number of cycles run so far: where `inputs` says nothing, it selects the free inputs. The model's own field (log
  entry 2). -/
  cycle : Nat
  /-- LoadProgram is admitted: no cycle has run since the last Reset (R176). The model's own field (log entry 5). -/
  loadOpen : Bool
deriving DecidableEq, Repr

/-- Why an operation stops. No step of the block stops: a fatal error is a next state with EXEC = HALT (R143). -/
inductive Fault where
  /-- LoadCapacityError, raised by the host's LoadProgram alone when the image has more than 3584 bytes; the block's state
  is unchanged (R175). Safe: it is what the spec says. -/
  | loadCapacityError
deriving DecidableEq, Repr

/-- Why the model does not admit an operation. -/
inductive Refusal where
  /-- An instruction with no meaning yet; raised by `exec`'s arms alone, and no arm does. Safe: nothing is claimed of it. -/
  | notModelled (mnemonic : String)
  /-- The host's LoadProgram after a cycle has run since the last Reset, which the spec refuses (R176, U16). Safe. -/
  | loadNotAdmitted
deriving DecidableEq, Repr

/-- The block right after Reset (R170, R171): memory lists nothing, so that the font cells read as FONT_TABLE's default and
every other cell as MEM_INIT. The host's side is empty, no pulse stands, and a load is admitted. -/
def State.reset : State where
  v := Vector.replicate 16 0
  i := 0
  pc := 0x0200
  stack := Vector.replicate 16 0
  sp := 0
  dt := 0
  st := 0
  fb := Vector.replicate 32 0
  dirty := false
  execState := .run
  fault := FaultRecord.clear
  mem := []
  stopTone := false
  diag := none
  inputs := []
  cycle := 0
  loadOpen := true

end Sys2Proof.Machine
end

