-- ==== Sys2Proof/Machine/Ops.lean ====
section
/-! DEFINITION. The named operations over the state: memory (20_memory.md), registers and stack (10_state.md), framebuffer, the
cycle's inputs, the one operation by which a fatal error is taken (60_exceptions.md rules R142, R143), and Reset, the only way
out of it (R144, R170). -/

namespace Sys2Proof.Machine

/-! ### Memory -/

/-- The value an unlisted cell holds by the spec: FONT_TABLE's default in the font, and no fixed value elsewhere (R172,
R173). -/
def Memory.fixedByte (a : Nat) : Option Byte :=
  if h : fontBase ≤ a ∧ a < fontBase + fontBytes then
    some (defaultFont[a - fontBase]'(by unfold fontBase fontBytes at *; omega))
  else none

/-- What an unlisted address reads as: the font, and elsewhere the free value MEM_INIT (R173; log entry 1). -/
def Memory.unlisted (a : Nat) : Byte := (Memory.fixedByte a).getD (Config.memInit a)

/-- The listed value of address `a`, if there is one. -/
def Memory.find : Memory → Nat → Option Byte
  | [], _ => none
  | (b, v) :: m, a => if a = b then some v else Memory.find m a

/-- `MemRead(a, 1)` (R44). It is called only after the address has been checked. -/
def Memory.read (m : Memory) (a : Nat) : Byte := (m.find a).getD (Memory.unlisted a)

/-- List `v` at address `a`, in its place. -/
def Memory.insert : Memory → Nat → Byte → Memory
  | [], a, v => [(a, v)]
  | (b, w) :: m, a, v =>
    if a < b then (a, v) :: (b, w) :: m
    else if a = b then (a, v) :: m
    else (b, w) :: Memory.insert m a v

/-- Take address `a` off the list, wherever it stands. -/
def Memory.erase : Memory → Nat → Memory
  | [], _ => []
  | (b, w) :: m, a => if a = b then Memory.erase m a else (b, w) :: Memory.erase m a

/-- `MemWrite(a, 1, v)` (R45): it changes no other cell. Writing the font's own byte to its cell unlists the cell. It is
called only after the address has been checked; an address outside memory holds nothing and stays so. -/
def Memory.write (m : Memory) (a : Nat) (v : Byte) : Memory :=
  if Config.memSize ≤ a then m
  else if Memory.fixedByte a = some v then m.erase a
  else m.insert a v

/-- Every listed address is above `lo`, and they rise strictly. -/
def Memory.risesAbove : Nat → Memory → Bool
  | _, [] => true
  | lo, (a, _) :: m => decide (lo < a) && Memory.risesAbove a m

/-- The canonical form: addresses rise strictly, lie in memory, and no entry is the fixed value of its unlisted cell. -/
def Memory.wf (m : Memory) : Bool :=
  (match m with
    | [] => true
    | (a, _) :: rest => Memory.risesAbove a rest)
  && m.all fun c => decide (c.1 < Config.memSize) && decide (Memory.fixedByte c.1 ≠ some c.2)

/-- Write `f 0` to `f (n - 1)` at `base`, `base + 1`, …, in that order. -/
def Memory.writeRange (m : Memory) (base n : Nat) (f : Nat → Byte) : Memory :=
  (List.range n).foldl (fun m k => m.write (base + k) (f k)) m

/-- Memory after Reset with the given FONT_TABLE (R170). -/
def Memory.ofFont (font : FontTable) : Memory :=
  (List.range fontBytes).foldl
    (fun m b => if h : b < 80 then m.write (fontBase + b) (font[b]'h) else m) []

/-- The byte of memory at `a`. -/
def State.byte (s : State) (a : Nat) : Byte := s.mem.read a

/-- `s` with this memory. -/
def State.setMem (s : State) (m : Memory) : State := { s with mem := m }

/-! ### Registers -/

/-- `V[k]` (R20). -/
def State.reg (s : State) (k : Nibble) : Byte := s.v[k.toNat]

/-- `V[k] <- b` (R20). No register is hardwired. -/
def State.setReg (s : State) (k : Nibble) (b : Byte) : State := { s with v := s.v.set k.toNat b }

/-- `I <- w` (R22). -/
def State.setI (s : State) (w : Word) : State := { s with i := w }

/-- `PC <- target` (R23). -/
def State.setPc (s : State) (w : Word) : State := { s with pc := w }

/-- `PC <- (PC + 2) mod 65536` (R23). -/
def State.advance (s : State) : State := s.setPc (s.pc + 2)

/-- A skip: PC + 4 when the condition holds, else PC + 2 (R23, R90). The skipped word is not fetched (R180). -/
def State.skipIf (s : State) (c : Bool) : State := s.setPc (if c then s.pc + 4 else s.pc + 2)

/-- `DT <- b` (R26). -/
def State.setDt (s : State) (b : Byte) : State := { s with dt := b }

/-- `ST <- b` (R27). -/
def State.setSt (s : State) (b : Byte) : State := { s with st := b }

/-- `EXEC <- e` (R30). -/
def State.setExec (s : State) (e : Exec) : State := { s with execState := e }

/-! ### The call stack -/

/-- `STACK[k]` (R24). -/
def State.stackEntry (s : State) (k : Nibble) : Word := s.stack[k.toNat]

/-- `Push(v)`; `none` when SP = 16, where the spec raises StackOverflow (R25). -/
def State.push (s : State) (w : Word) : Option State :=
  if h : s.sp.val < 16 then
    some { s with stack := s.stack.set s.sp.val w, sp := ⟨s.sp.val + 1, by omega⟩ }
  else none

/-- `Pop()`: the popped value and the state after it, in which the entry keeps its value; `none` when SP = 0, where the spec
raises StackUnderflow (R25). -/
def State.pop (s : State) : Option (Word × State) :=
  if h : 0 < s.sp.val then
    some (s.stack[s.sp.val - 1]'(by omega), { s with sp := ⟨s.sp.val - 1, by omega⟩ })
  else none

/-! ### The framebuffer -/

/-- `FB[c][r]`: true when the cell is set (R28). -/
def Framebuffer.pixel (fb : Framebuffer) (c : BitVec 6) (r : BitVec 5) : Bool := (fb[r.toNat]).getLsbD c.toNat

/-- `FB[c][r] <- FB[c][r] ^ 1`. -/
def Framebuffer.toggle (fb : Framebuffer) (c : BitVec 6) (r : BitVec 5) : Framebuffer :=
  fb.set r.toNat (fb[r.toNat] ^^^ (1#64 <<< c.toNat))

/-- Every cell clear. -/
def Framebuffer.blank : Framebuffer := Vector.replicate 32 0

/-- `FB[c][r]` of the state. -/
def State.pixel (s : State) (c : BitVec 6) (r : BitVec 5) : Bool := Framebuffer.pixel s.fb c r

/-- A new framebuffer, and DIRTY set whatever it changes (R29). -/
def State.setDisplay (s : State) (fb : Framebuffer) : State := { s with fb := fb, dirty := true }

/-! ### The cycle's inputs -/

/-- The inputs the block samples in this cycle: what the host presents, and free values where it presents nothing (R157,
R158; log entry 2). -/
def State.input (s : State) : CycleInput :=
  s.inputs.headD
    { keys := Config.freeKeys s.cycle, event := Config.freeKeyEvent s.cycle, rand := Config.freeRand s.cycle }

/-- `KEY[k]` of this cycle (R157). -/
def State.keyDown (s : State) (k : Nibble) : Bool := s.input.keys.getLsbD k.toNat

/-! ### Fatal errors -/

/-- Take a fatal error: EXEC <- HALT and FAULT records the cause, PC, the opcode and the info; nothing else changes (R142,
R143). -/
def State.raise (s : State) (code : FaultCode) (info : BitVec 17) (opcode : Word) : State :=
  { s with execState := .halt, fault := { code := code, pc := s.pc, opcode := opcode, info := info } }

/-- Reset, with the parameter FONT_TABLE: the only way out of HALT (R144, R170). There is no other return from a fatal error
(R146). What the host presents and the count of cycles are not the block's, and stay. -/
def State.resetWith (s : State) (font : FontTable) : State :=
  { State.reset with mem := Memory.ofFont font, inputs := s.inputs, cycle := s.cycle }

end Sys2Proof.Machine
end

