-- ==== Sys2Proof/Machine/Operands.lean ====
section
/-! DEFINITION. Operand forms: addresses and their check, the key index, decimal digits, sprite bits and coordinates
(20_memory.md rule R46; 30_encoding.md rule R63; files 43 and 44). -/

namespace Sys2Proof.Machine

/-- `zext_16(nnn)`: a jump target, an index value or an addend (R63). -/
def zextAddr (nnn : Addr) : Word := nnn.setWidth 16

/-- `zext_16` of a byte (R8). -/
def zextByte (b : Byte) : Word := b.setWidth 16

/-- A key number as a register's value (R123). -/
def keyByte (k : Nibble) : Byte := k.setWidth 8

/-- The effective address `I + k`, a natural number without wrap-around (R46). -/
def State.effAddr (s : State) (k : Nat) : Nat := s.i.toNat + k

/-- `CheckAddr` of `base`, `base + 1`, …, `base + n - 1`, lowest first: the first of them that is 4096 or more (R46). -/
def firstOutOfRange (base n : Nat) : Option Nat :=
  ((List.range n).map (base + ·)).find? fun a => decide (Config.memSize ≤ a)

/-- A data access to the `n` bytes at I: with an address out of range, MemoryOutOfBounds with the lowest one and nothing else;
otherwise `effect` (R46, R141). -/
def State.withCheckedAddrs (s : State) (n : Nat) (opcode : Word) (effect : State) : State :=
  match firstOutOfRange s.i.toNat n with
  | some a => s.raise .memoryOutOfBounds (BitVec.ofNat 17 a) opcode
  | none => effect

/-- A key index `V[x]`: a key number when it is at most 15 (R120). -/
def keyIndex (b : Byte) : Option Nibble := if b.toNat ≤ 15 then some (b.setWidth 4) else none

/-- `0x050 + 5 * V[x]`, not masked to a digit (R127). -/
def fontAddr (b : Byte) : Word := BitVec.ofNat 16 (fontBase + glyphBytes * b.toNat)

/-- The decimal digits of a byte: hundreds, tens and ones for k = 0, 1, 2 (R128). -/
def bcdDigit (b : Byte) (k : Nat) : Byte :=
  if k = 0 then BitVec.ofNat 8 (b.toNat / 100)
  else if k = 1 then BitVec.ofNat 8 (b.toNat / 10 % 10)
  else BitVec.ofNat 8 (b.toNat % 10)

/-- The bit of a sprite byte that column c draws: bit 7 is column 0. The spec takes the customary order (R114, D14; log
entry 4). -/
def spriteBit (b : Byte) (c : Nat) : Bool := b.getLsbD (7 - c)

/-- `(vx + c) mod 64` (R114). -/
def pixelColumn (vx : Byte) (c : Nat) : BitVec 6 := BitVec.ofNat 6 (vx.toNat + c)

/-- `(vy + r) mod 32` (R114). -/
def pixelRow (vy : Byte) (r : Nat) : BitVec 5 := BitVec.ofNat 5 (vy.toNat + r)

/-- V[k] as the k-th register of a transfer, `k` counting from 0 (R129, R130). -/
def regNumber (k : Nat) : Nibble := BitVec.ofNat 4 k

end Sys2Proof.Machine
end

