-- ==== Sys2Proof/Machine/Flags.lean ====
section
/-! DEFINITION. The flags, each a function of the operands as they were before the instruction, and how one is written to VF
(10_state.md rule R21; 42_alu.md rule R100; 43_index_jump_random_draw.md rule R114). -/

namespace Sys2Proof.Machine

/-- VF, the register that takes the flags (R21). -/
def vf : Nibble := 0xF

/-- `zext_8(flag)`: 0x00 or 0x01 (R100). -/
def flagByte (f : Bool) : Byte := if f then 1 else 0

/-- The carry of 8XY4: the exact sum is above 255 (R105). -/
def carryFlag (vx vy : Byte) : Bool := decide (255 < vx.toNat + vy.toNat)

/-- The no-borrow flag of `a - b`: a ≥ b (R106, R108). -/
def noBorrowFlag (a b : Byte) : Bool := decide (b.toNat ≤ a.toNat)

/-- The bit 8XY6 shifts out: bit 0 before the shift (R107). -/
def shiftedOutRight (vx : Byte) : Bool := vx.getLsbD 0

/-- The bit 8XYE shifts out: bit 7 before the shift (R109). -/
def shiftedOutLeft (vx : Byte) : Bool := vx.getLsbD 7

/-- Write the result to V[x], then the flag to VF, so that the flag wins when x = F (R11, R100). -/
def State.setResultFlag (s : State) (x : Nibble) (result : Byte) (flag : Bool) : State :=
  (s.setReg x result).setReg vf (flagByte flag)

/-- One sprite cell: XOR a set bit onto the framebuffer, and record a collision when the cell was set (R114). -/
def drawCell (b vx vy : Byte) (r : Nat) (p : Framebuffer × Bool) (c : Nat) : Framebuffer × Bool :=
  if spriteBit b c then
    (Framebuffer.toggle p.1 (pixelColumn vx c) (pixelRow vy r),
      p.2 || Framebuffer.pixel p.1 (pixelColumn vx c) (pixelRow vy r))
  else p

/-- One sprite row: its columns 0 to 7 in order (R114). -/
def drawRow (b vx vy : Byte) (p : Framebuffer × Bool) (r : Nat) : Framebuffer × Bool :=
  (List.range 8).foldl (drawCell b vx vy r) p

/-- The sprite of `n` rows at I onto the framebuffer at (vx, vy): the new framebuffer and the collision flag (R114). -/
def State.drawSprite (s : State) (vx vy : Byte) (n : Nat) : Framebuffer × Bool :=
  (List.range n).foldl (fun p r => drawRow (s.byte (s.effAddr r)) vx vy p r) (s.fb, false)

end Sys2Proof.Machine
end

