-- ==== Sys2Proof/Machine/KeyTimerMemory.lean ====
section
/-! DEFINITION. EX9E, EXA1, FX07, FX0A, FX15, FX18, FX1E, FX29, FX33, FX55, FX65 (44_keys_timers_memory.md). -/

namespace Sys2Proof.Machine

/-- EX9E SKP Vx: KeyIndexOutOfRange when V[x] is above 15 (R120). -/
def execSkp (x : Nibble) (s : State) : Host.Outcome State Fault Refusal :=
  match keyIndex (s.reg x) with
  | some k => .next (s.skipIf (s.keyDown k))
  | none => .next (s.raise .keyIndexOutOfRange ((s.reg x).setWidth 17) (encode (.skp x)))

/-- EXA1 SKNP Vx: KeyIndexOutOfRange when V[x] is above 15 (R121). -/
def execSknp (x : Nibble) (s : State) : Host.Outcome State Fault Refusal :=
  match keyIndex (s.reg x) with
  | some k => .next (s.skipIf (!s.keyDown k))
  | none => .next (s.raise .keyIndexOutOfRange ((s.reg x).setWidth 17) (encode (.sknp x)))

/-- FX07 LD Vx, DT: the value before this cycle's tick (R122). -/
def execLdVxDt (x : Nibble) (s : State) : Host.Outcome State Fault Refusal :=
  .next (s.setReg x s.dt).advance

/-- FX0A's first cycle: a key-press event completes it; without one the wait starts and PC stays (R123). -/
def keyWaitStart (x : Nibble) (s : State) : State :=
  match s.input.event with
  | some k => (s.setReg x (keyByte k)).advance
  | none => s.setExec (.waitKey x)

/-- Every later cycle of the wait: an event writes V[x], advances PC and ends the wait; without one nothing changes (R123). -/
def keyWaitStep (x : Nibble) (s : State) : State :=
  match s.input.event with
  | some k => ((s.setReg x (keyByte k)).advance).setExec .run
  | none => s

/-- FX0A LD Vx, K (R123). -/
def execLdVxK (x : Nibble) (s : State) : Host.Outcome State Fault Refusal :=
  .next (keyWaitStart x s)

/-- FX15 LD DT, Vx (R124). -/
def execLdDtVx (x : Nibble) (s : State) : Host.Outcome State Fault Refusal :=
  .next (s.setDt (s.reg x)).advance

/-- FX18 LD ST, Vx (R125). -/
def execLdStVx (x : Nibble) (s : State) : Host.Outcome State Fault Refusal :=
  .next (s.setSt (s.reg x)).advance

/-- FX1E ADD I, Vx: modulo 65536, no flag (R126). -/
def execAddI (x : Nibble) (s : State) : Host.Outcome State Fault Refusal :=
  .next (s.setI (s.i + zextByte (s.reg x))).advance

/-- FX29 LD F, Vx (R127). -/
def execLdF (x : Nibble) (s : State) : Host.Outcome State Fault Refusal :=
  .next (s.setI (fontAddr (s.reg x))).advance

/-- FX33 LD B, Vx: hundreds, tens, ones at I, I+1, I+2, all checked before any write (R128). -/
def execLdB (x : Nibble) (s : State) : Host.Outcome State Fault Refusal :=
  .next (s.withCheckedAddrs 3 (encode (.ldB x))
    (s.setMem (s.mem.writeRange s.i.toNat 3 (bcdDigit (s.reg x)))).advance)

/-- FX55 LD [I], Vx: V0 to V[x] at I, I+1, …; I stays (R129). -/
def execStoreRegs (x : Nibble) (s : State) : Host.Outcome State Fault Refusal :=
  .next (s.withCheckedAddrs (x.toNat + 1) (encode (.storeRegs x))
    (s.setMem (s.mem.writeRange s.i.toNat (x.toNat + 1) fun k => s.reg (regNumber k))).advance)

/-- Load V0, V1, … from the `n` bytes at I, in that order (R130). -/
def State.loadRange (s : State) (n : Nat) : State :=
  (List.range n).foldl (fun t k => t.setReg (regNumber k) (s.byte (s.effAddr k))) s

/-- FX65 LD Vx, [I]: V0 to V[x] from I, I+1, …; I stays (R130). -/
def execLoadRegs (x : Nibble) (s : State) : Host.Outcome State Fault Refusal :=
  .next (s.withCheckedAddrs (x.toNat + 1) (encode (.loadRegs x)) (s.loadRange (x.toNat + 1)).advance)

end Sys2Proof.Machine
end

