-- ==== Sys2Proof/Machine/Cycle.lean ====
section
/-! DEFINITION. The parts of one cycle around the instruction: the fetch, an unrecognised word, the timer tick, and what every
cycle does to the block's interface (30_encoding.md rules R64, R68; 60_exceptions.md rules R147, R150, R152, R157). -/

namespace Sys2Proof.Machine

/-- The word at PC, high byte first; `none` when PC or PC + 1 is outside memory (R64). -/
def fetchWord (s : State) : Option Word :=
  if s.pc.toNat + 1 < Config.memSize then
    some (wordOfBytes (s.byte s.pc.toNat) (s.byte (s.pc.toNat + 1)))
  else none

/-- A fetch outside memory: FetchOutOfBounds, with opcode 0x0000 and info 0 (R141, R142). -/
def fetchFault (s : State) : State := s.raise .fetchOutOfBounds 0 0

/-- What the DIAG output carries for the unrecognised word `op` at PC (R145). -/
def diagReport (s : State) (op : Word) : Diag := { pc := s.pc, opcode := op }

/-- The step of an unrecognised word: PC + 2 and nothing else (R68). -/
def skipUnrecognized (s : State) : State := s.advance

/-- A timer's value after a tick: one less, and 0 stays 0 (R152). -/
def timerDown (b : Byte) : Byte := if b = 0 then 0 else b - 1

/-- The timer tick: both timers count down, and STOP_TONE pulses when ST goes from 1 to 0 (R152, R154). -/
def tick (s : State) : State :=
  { s with dt := timerDown s.dt, st := timerDown s.st, stopTone := decide (s.st = 1) }

/-- A cycle without a tick: no STOP_TONE (R143, R144). -/
def withoutTick (s : State) : State := { s with stopTone := false }

/-- The end of every cycle: its DIAG output stands, its inputs are used up, and a load is no longer admitted (R157, R176). -/
def endCycle (d : Option Diag) (s : State) : State :=
  { s with diag := d, inputs := s.inputs.tail, cycle := s.cycle + 1, loadOpen := false }

/-- What follows the step: the tick, unless EXEC is HALT (R144, R150), and the end of the cycle. -/
def completeCycle (d : Option Diag) (s : State) : State :=
  endCycle d (if s.execState = .halt then withoutTick s else tick s)

/-- `s` made to fetch: in RUN, at a PC whose two bytes lie in memory (the entry point where the present PC is no such
address). -/
def readyToFetch (s : State) : State :=
  (s.setExec .run).setPc (if s.pc.toNat + 1 < Config.memSize then s.pc else BitVec.ofNat 16 Config.progBase)

/-- `s` with the word `op` stored at PC, high byte first (R47). -/
def storeAtPc (s : State) (op : Word) : State :=
  s.setMem ((s.mem.write s.pc.toNat (highByte op)).write (s.pc.toNat + 1) (lowByte op))

end Sys2Proof.Machine
end

