-- ==== Sys2Proof/Machine/IndexDraw.lean ====
section
/-! DEFINITION. 9XY0, ANNN, BNNN, CXNN, DXYN (43_index_jump_random_draw.md). -/

namespace Sys2Proof.Machine

/-- 9XY0 SNE Vx, Vy (R110). -/
def execSneReg (x y : Nibble) (s : State) : Host.Outcome State Fault Refusal :=
  .next (s.skipIf (decide (s.reg x ≠ s.reg y)))

/-- ANNN LD I, nnn (R111). -/
def execLdI (nnn : Addr) (s : State) : Host.Outcome State Fault Refusal :=
  .next (s.setI (zextAddr nnn)).advance

/-- BNNN JP V0, nnn: the sum is not masked to 12 bits (R112). -/
def execJpV0 (nnn : Addr) (s : State) : Host.Outcome State Fault Refusal :=
  .next (s.setPc (zextByte (s.reg 0) + zextAddr nnn))

/-- CXNN RND Vx, nn: this cycle's random byte, ANDed with nn (R113). -/
def execRnd (x : Nibble) (nn : Byte) (s : State) : Host.Outcome State Fault Refusal :=
  .next (s.setReg x (s.input.rand &&& nn)).advance

/-- DRW's effect when every row's address is in memory: FB, DIRTY, then VF <- collision (R114). -/
def drawEffect (x y n : Nibble) (s : State) : State :=
  let p := s.drawSprite (s.reg x) (s.reg y) n.toNat
  ((s.setDisplay p.1).setReg vf (flagByte p.2)).advance

/-- DXYN DRW Vx, Vy, n: all rows are checked before any change (R114, R46). -/
def execDrw (x y n : Nibble) (s : State) : Host.Outcome State Fault Refusal :=
  .next (s.withCheckedAddrs n.toNat (encode (.drw x y n)) (drawEffect x y n s))

end Sys2Proof.Machine
end

