-- ==== Sys2Proof/Machine/SkipImmediate.lean ====
section
/-! DEFINITION. 3XNN, 4XNN, 5XY0, 6XNN, 7XNN (41_skips_and_immediates.md). -/

namespace Sys2Proof.Machine

/-- 3XNN SE Vx, nn (R90). -/
def execSeImm (x : Nibble) (nn : Byte) (s : State) : Host.Outcome State Fault Refusal :=
  .next (s.skipIf (decide (s.reg x = nn)))

/-- 4XNN SNE Vx, nn (R91). -/
def execSneImm (x : Nibble) (nn : Byte) (s : State) : Host.Outcome State Fault Refusal :=
  .next (s.skipIf (decide (s.reg x ≠ nn)))

/-- 5XY0 SE Vx, Vy (R92). -/
def execSeReg (x y : Nibble) (s : State) : Host.Outcome State Fault Refusal :=
  .next (s.skipIf (decide (s.reg x = s.reg y)))

/-- 6XNN LD Vx, nn (R93). -/
def execLdImm (x : Nibble) (nn : Byte) (s : State) : Host.Outcome State Fault Refusal :=
  .next (s.setReg x nn).advance

/-- 7XNN ADD Vx, nn: modulo 256, no flag (R94). -/
def execAddImm (x : Nibble) (nn : Byte) (s : State) : Host.Outcome State Fault Refusal :=
  .next (s.setReg x (s.reg x + nn)).advance

end Sys2Proof.Machine
end

