-- ==== Sys2Proof/Machine/SystemFlow.lean ====
section
/-! DEFINITION. 00E0, 00EE, 0NNN, 1NNN, 2NNN (40_system_and_flow.md). -/

namespace Sys2Proof.Machine

/-- 00E0 CLS: every cell clear, DIRTY set (R80). -/
def execCls (s : State) : Host.Outcome State Fault Refusal :=
  .next (s.setDisplay Framebuffer.blank).advance

/-- 00EE RET: PC takes the popped address; StackUnderflow when the stack is empty (R81). -/
def execRet (s : State) : Host.Outcome State Fault Refusal :=
  match s.pop with
  | some (target, t) => .next (t.setPc target)
  | none => .next (s.raise .stackUnderflow 0 (encode .ret))

/-- 0NNN SYS: a no-op that reports nothing (R82, R69). -/
def execSys (_nnn : Addr) (s : State) : Host.Outcome State Fault Refusal :=
  .next s.advance

/-- 1NNN JP nnn (R83). -/
def execJp (nnn : Addr) (s : State) : Host.Outcome State Fault Refusal :=
  .next (s.setPc (zextAddr nnn))

/-- 2NNN CALL nnn: PC + 2 is pushed; StackOverflow when the stack is full (R84). -/
def execCall (nnn : Addr) (s : State) : Host.Outcome State Fault Refusal :=
  match s.push (s.pc + 2) with
  | some t => .next (t.setPc (zextAddr nnn))
  | none => .next (s.raise .stackOverflow 0 (encode (.call nnn)))

end Sys2Proof.Machine
end

