-- ==== Sys2Proof/Machine/Step.lean ====
section
/-! DEFINITION. One cycle of the block, `RunCycle` (60_exceptions.md rules R147, R150, R151). -/

namespace Sys2Proof.Machine

/-- One cycle: in HALT nothing happens; in WAITKEY the wait step; in RUN fetch, decode and execute. The tick follows unless
EXEC is HALT (R147, R150). -/
def step (s : State) : Host.Outcome State Fault Refusal :=
  match s.execState with
  | .halt => .next (completeCycle none s)
  | .waitKey x => .next (completeCycle none (keyWaitStep x s))
  | .run =>
    match fetchWord s with
    | none => .next (completeCycle none (fetchFault s))
    | some op =>
      match decodeWord op with
      | .error _ => .next (completeCycle (some (diagReport s op)) (skipUnrecognized s))
      | .ok i =>
        match exec i s with
        | .next t => .next (completeCycle none t)
        | .fault r => .fault r
        | .refused r => .refused r

/-- `s` with the word that the table's numbering gives as `w` stored where the next step fetches, so that this step runs it. A
state that would not fetch there is made to (`readyToFetch`). -/
def State.withFetchWord (s : State) (nbits w : Nat) : State :=
  storeAtPc (readyToFetch s) (tableWord nbits w)

end Sys2Proof.Machine
end

