-- ==== Sys2Proof/Machine/Interface.lean ====
section
/-! DEFINITION. The host's operations, each applied between cycles (60_exceptions.md rule R158), and what the host reads
(R157). -/

namespace Sys2Proof.Machine

/-! ### Outputs -/

/-- TONE: ST ≠ 0 after the cycle (R153). -/
def State.tone (s : State) : Bool := decide (s.st ≠ 0)

/-- `FAULT.code` as 3 bits (R141). -/
def faultCodeBits : FaultCode → BitVec 3
  | .none => 0
  | .fetchOutOfBounds => 1
  | .stackOverflow => 2
  | .stackUnderflow => 3
  | .memoryOutOfBounds => 4
  | .keyIndexOutOfRange => 5

/-- `EXEC.kind` as 2 bits; 11 is never held (R30). -/
def execKind : Exec → BitVec 2
  | .run => 0b00
  | .waitKey _ => 0b01
  | .halt => 0b10

/-- `EXEC.x`: the target register of a wait, 0 otherwise (R30). -/
def execX : Exec → Nibble
  | .run => 0
  | .waitKey x => x
  | .halt => 0

/-- The STATUS output: the fields of EXEC and FAULT (R157, R30, R31). -/
structure Status where
  kind : BitVec 2
  x : Nibble
  code : BitVec 3
  pc : Word
  opcode : Word
  info : BitVec 17
deriving DecidableEq, Repr

/-- STATUS after the cycle (R157). -/
def State.status (s : State) : Status :=
  { kind := execKind s.execState, x := execX s.execState, code := faultCodeBits s.fault.code,
    pc := s.fault.pc, opcode := s.fault.opcode, info := s.fault.info }

/-- What the host gets back from a cycle and from Read: the outputs that R157 and R158 list. DESIGN CHOICE: R32 gives the host read
access to DT and SP, which neither list names; the model keeps them out of here, and the host reads them as the fields `State.dt` and
`State.sp` (log entry 16). -/
structure Outputs where
  fb : Framebuffer
  dirty : Bool
  tone : Bool
  stopTone : Bool
  diag : Option Diag
  status : Status
deriving DecidableEq, Repr

/-- The block's outputs (R157). MEM is read by `State.byte`. -/
def State.outputs (s : State) : Outputs :=
  { fb := s.fb, dirty := s.dirty, tone := s.tone, stopTone := s.stopTone, diag := s.diag, status := s.status }

/-! ### Operations -/

/-- Reset with FONT_TABLE's default, from any state (R170, D37). -/
def hostReset (s : State) : State := s.resetWith defaultFont

/-- LoadProgram(rom): the image goes to 0x200; LoadCapacityError when it has more than 3584 bytes (R174, R175); refused once
a cycle has run since the last Reset (R176). -/
def loadProgram (rom : List Byte) (s : State) : Host.Outcome State Fault Refusal :=
  if s.loadOpen = false then .refused .loadNotAdmitted
  else if Config.progMax < rom.length then .fault .loadCapacityError
  else .next (s.setMem (s.mem.writeRange Config.progBase rom.length fun k => rom.getD k 0))

/-- The host presents these inputs to the next cycle, before whatever it presents later (R158). -/
def presentInput (c : CycleInput) (s : State) : State := { s with inputs := c :: s.inputs }

/-- RunCycle(KEY, KEY_EVENT, RAND) (R150, R158). -/
def runCycle (c : CycleInput) (s : State) : Host.Outcome State Fault Refusal := step (presentInput c s)

/-- ClearDirty (R158). -/
def clearDirty (s : State) : State := { s with dirty := false }

end Sys2Proof.Machine
end

