-- ==== Sys2Proof/Safety.lean ====
section
/-! DEFINITION. The terms claims are stated in: a named piece of state and what it means for one to be unchanged, the legal
fault records, the invariants, and a safe run. -/

namespace Sys2Proof.Machine

/-- A piece of the state, every one of them (10_state.md; then the model's own fields for the interface). -/
inductive Field where
  | reg (k : Nibble)
  | index
  | pc
  | stackEntry (k : Nibble)
  | sp
  | delay
  | sound
  | pixel (c : BitVec 6) (r : BitVec 5)
  | dirty
  | execState
  | fault
  | byte (a : Nat)
  | stopTone
  | diag
  | inputs
  | cycle
  | loadOpen
deriving DecidableEq, Repr

/-- The piece of state has the same value in both states. Memory is compared by reading the byte. -/
def Field.same (s t : State) : Field → Prop
  | .reg k => t.reg k = s.reg k
  | .index => t.i = s.i
  | .pc => t.pc = s.pc
  | .stackEntry k => t.stackEntry k = s.stackEntry k
  | .sp => t.sp = s.sp
  | .delay => t.dt = s.dt
  | .sound => t.st = s.st
  | .pixel c r => t.pixel c r = s.pixel c r
  | .dirty => t.dirty = s.dirty
  | .execState => t.execState = s.execState
  | .fault => t.fault = s.fault
  | .byte a => t.byte a = s.byte a
  | .stopTone => t.stopTone = s.stopTone
  | .diag => t.diag = s.diag
  | .inputs => t.inputs = s.inputs
  | .cycle => t.cycle = s.cycle
  | .loadOpen => t.loadOpen = s.loadOpen

/-- Every piece of state that is not among the `written` ones is unchanged from `s` to `t`. -/
def SameExcept (written : Field → Prop) (s t : State) : Prop := ∀ f, ¬ written f → Field.same s t f

/-- The pieces of state that belong to the interface and not to the block: every cycle moves them on. -/
def Field.ofInterface : Field → Prop
  | .stopTone | .diag | .inputs | .cycle | .loadOpen => True
  | .reg _ | .index | .pc | .stackEntry _ | .sp | .delay | .sound | .pixel _ _ | .dirty | .execState | .fault | .byte _ => False

/-- A fault record as a fatal error leaves it (60_exceptions.md rule R141). -/
def FaultRecord.legal (f : FaultRecord) : Prop :=
  match f.code with
  | .none => False
  | .fetchOutOfBounds => f.opcode = 0 ∧ f.info = 0 ∧ 0x0FFF ≤ f.pc.toNat
  | .stackOverflow => opFamily f.opcode = 0x2#4 ∧ f.info = 0
  | .stackUnderflow => f.opcode = 0x00EE#16 ∧ f.info = 0
  | .memoryOutOfBounds => 0x1000 ≤ f.info.toNat ∧ f.info.toNat ≤ 0x1000E
  | .keyIndexOutOfRange => 16 ≤ f.info.toNat ∧ f.info.toNat ≤ 255

/-- The invariant of the block: memory is in canonical form, FAULT is written exactly when EXEC is HALT and is then a legal
record whose pc is PC (R31, R141, R142). -/
def State.Inv (s : State) : Prop :=
  s.mem.wf = true ∧
  (s.execState = .halt → s.fault.legal ∧ s.fault.pc = s.pc) ∧
  (s.execState ≠ .halt → s.fault = FaultRecord.clear)

/-- The bound on PC that no run passes (10_state.md rule R23): PC is at most 0x10FE, a waiting FX0A stands inside memory, and
every stack entry is at most 0x1000. -/
def State.PcBounded (s : State) : Prop :=
  s.pc.toNat ≤ 0x10FE ∧
  (∀ x, s.execState = .waitKey x → s.pc.toNat + 1 < Config.memSize) ∧
  ∀ k, (s.stackEntry k).toNat ≤ 0x1000

/-- The cells the sprite of DXYN covers with a set bit: column c lies (c - V[x]) mod 64 < 8 columns into the sprite, row r lies
(r - V[y]) mod 32 < n rows into it, and the byte of that row has the bit (R114). -/
def State.spriteCell (s : State) (x y n : Nibble) (c : BitVec 6) (r : BitVec 5) : Bool :=
  let dc := (c - (s.reg x).setWidth 6).toNat
  let dr := (r - (s.reg y).setWidth 5).toNat
  decide (dc < 8) && decide (dr < n.toNat) && (s.byte (s.i.toNat + dr)).getLsbD (7 - dc)

/-- The `n` bytes from I lie in memory; no byte always does (R46). -/
def State.inMemory (s : State) (n : Nat) : Prop := n = 0 ∨ s.i.toNat + n ≤ Config.memSize

/-- The instructions that write `V[x]` as data and no flag (R10, R20). -/
def plainDestination : Instr → Option Nibble
  | .ldImm x _ | .addImm x _ | .ldReg x _ | .orReg x _ | .andReg x _ | .xorReg x _ | .rnd x _ | .ldVxDt x => some x
  | .addReg _ _ | .subReg _ _ | .shr _ _ | .subnReg _ _ | .shl _ _ => none
  | .cls | .ret | .sys _ | .jp _ | .call _ | .seImm _ _ | .sneImm _ _ | .seReg _ _ | .sneReg _ _ => none
  | .ldI _ | .jpV0 _ | .drw _ _ _ | .skp _ | .sknp _ | .ldVxK _ | .ldDtVx _ | .ldStVx _ => none
  | .addI _ | .ldF _ | .ldB _ | .storeRegs _ | .loadRegs _ => none

/-- The instructions of family 8 that write `V[x]` and then VF as a flag (R21, R100). -/
def flaggedDestination : Instr → Option Nibble
  | .addReg x _ | .subReg x _ | .shr x _ | .subnReg x _ | .shl x _ => some x
  | .ldImm _ _ | .addImm _ _ | .ldReg _ _ | .orReg _ _ | .andReg _ _ | .xorReg _ _ | .rnd _ _ | .ldVxDt _ => none
  | .cls | .ret | .sys _ | .jp _ | .call _ | .seImm _ _ | .sneImm _ _ | .seReg _ _ | .sneReg _ _ => none
  | .ldI _ | .jpV0 _ | .drw _ _ _ | .skp _ | .sknp _ | .ldVxK _ | .ldDtVx _ | .ldStVx _ => none
  | .addI _ | .ldF _ | .ldB _ | .storeRegs _ | .loadRegs _ => none

/-- A safe run: `n` cycles from `s` that raise no fatal error (R162: EXEC = HALT is a faulted end). -/
def State.SafeFor : Nat → State → Prop
  | 0, s => s.execState ≠ .halt
  | n + 1, s => s.execState ≠ .halt ∧ ∃ t, step s = .next t ∧ t.SafeFor n

end Sys2Proof.Machine
end

