-- ==== Sys2Proof/Certificates/Slice0/Obligations.lean ====
section
/-! DEFINITION. The statements about the block, for the provers. Each docstring names the rules of spec/ it rests on; where it rests
on a decision of the spec (D<n>) or a choice of the model (log entry <n>), it says so. -/

open Sys2Proof Sys2Proof.Machine

/-! ### Encoding -/

/-- Every well-formed instruction decodes from its own word, and from its two bytes with any bytes after them
(30_encoding.md rules R60 to R66). -/
def Obligations.DecodeOfEncodeIsTheInstruction : Prop :=
  ∀ i : Instr, i.wellFormed = true →
    decodeWord (encode i) = .ok i ∧ ∀ rest, decodeBytes (encodeBytes i ++ rest) = .ok (i, rest)

/-- A word that decodes is the word of the instruction it decodes to: no bit of it is dropped, and one word has one meaning
(30_encoding.md rules R61, R65, R70). -/
def Obligations.EncodeOfDecodeIsTheWord : Prop :=
  ∀ (w : Word) (i : Instr), decodeWord w = .ok i → i.wellFormed = true ∧ encode i = w

/-- The unrecognised words are exactly the five patterns of 30_encoding.md rule R67, and the decoder rejects by the word's name. -/
def Obligations.UnrecognisedWordsAreTheFivePatterns : Prop :=
  ∀ (w : Word) (e : DecodeError), decodeWord w = .error e ↔
    e = .unrecognized w ∧
    ((opFamily w = 0x5#4 ∧ opN w ≠ 0x0#4) ∨
     (opFamily w = 0x8#4 ∧ opN w ∈ [0x8#4, 0x9#4, 0xA#4, 0xB#4, 0xC#4, 0xD#4, 0xF#4]) ∨
     (opFamily w = 0x9#4 ∧ opN w ≠ 0x0#4) ∨
     (opFamily w = 0xE#4 ∧ opNN w ∉ [0x9E#8, 0xA1#8]) ∨
     (opFamily w = 0xF#4 ∧
       opNN w ∉ [0x07#8, 0x0A#8, 0x15#8, 0x18#8, 0x1E#8, 0x29#8, 0x33#8, 0x55#8, 0x65#8]))

/-- Words written out from the patterns of 30_encoding.md rule R66, one of each format and more, decode to their instructions. -/
def Obligations.WordsOfTheTableDecode : Prop :=
  decodeWord 0x00E0#16 = .ok .cls ∧ decodeWord 0x00EE#16 = .ok .ret ∧ decodeWord 0x0123#16 = .ok (.sys 0x123) ∧
  decodeWord 0x1ABC#16 = .ok (.jp 0xABC) ∧ decodeWord 0x3A5C#16 = .ok (.seImm 0xA 0x5C) ∧
  decodeWord 0x5120#16 = .ok (.seReg 0x1 0x2) ∧ decodeWord 0x8127#16 = .ok (.subnReg 0x1 0x2) ∧
  decodeWord 0xD125#16 = .ok (.drw 0x1 0x2 0x5) ∧ decodeWord 0xE2A1#16 = .ok (.sknp 0x2) ∧
  decodeWord 0xF333#16 = .ok (.ldB 0x3) ∧ decodeWord 0x5121#16 = .error (.unrecognized 0x5121)

/-! ### The cycle -/

/-- In RUN, a step whose two bytes at PC decode to an instruction is that instruction's execution, and then the end of the cycle
(30_encoding.md R64, R65; 60_exceptions.md R150, R151; D27). What the end of the cycle does is
`CycleEndTicksUnlessHalted`. -/
def Obligations.StepRunsTheDecodedInstruction : Prop :=
  ∀ (s t : State) (i : Instr), s.execState = .run → s.pc.toNat + 1 < 4096 →
    decodeWord (s.byte s.pc.toNat ++ s.byte (s.pc.toNat + 1)) = .ok i → exec i s = .next t →
    step s = .next (completeCycle none t)

/-- The end of a cycle: without HALT both timers count down by one and stop at 0, and STOP_TONE pulses exactly when ST was 1; in
HALT neither timer moves and no tone stops (60_exceptions.md R143, R144, R150, R152; the spec's decisions D4, D5, D27). In both, and
in HALT too, the cycle's inputs are used up, the count of cycles goes up, the load is closed and DIAG takes this cycle's report:
these four are the model's own fields and its choice (log entries 2, 5, 6, 14). Nothing else changes. -/
def Obligations.CycleEndTicksUnlessHalted : Prop :=
  ∀ (d : Option Diag) (t : State),
    (completeCycle d t).diag = d ∧ (completeCycle d t).inputs = t.inputs.tail ∧
    (completeCycle d t).cycle = t.cycle + 1 ∧ (completeCycle d t).loadOpen = false ∧
    SameExcept (fun f => f = .delay ∨ f = .sound ∨ f.ofInterface) t (completeCycle d t) ∧
    (t.execState = .halt →
      (completeCycle d t).dt = t.dt ∧ (completeCycle d t).st = t.st ∧ (completeCycle d t).stopTone = false) ∧
    (t.execState ≠ .halt →
      (completeCycle d t).dt.toNat = t.dt.toNat - 1 ∧ (completeCycle d t).st.toNat = t.st.toNat - 1 ∧
      ((completeCycle d t).stopTone = true ↔ t.st.toNat = 1))

/-- The tick of 60_exceptions.md rule R152: each timer that is not 0 goes down by one, one that is 0 stays 0, neither looks at the
other, STOP_TONE pulses exactly on ST's step from 1 to 0, and nothing else changes. -/
def Obligations.TickCountsDownAndSaturates : Prop :=
  ∀ s : State,
    (0 < s.dt.toNat → (tick s).dt.toNat = s.dt.toNat - 1) ∧ (s.dt = 0 → (tick s).dt = 0) ∧
    (0 < s.st.toNat → (tick s).st.toNat = s.st.toNat - 1) ∧ (s.st = 0 → (tick s).st = 0) ∧
    ((tick s).stopTone = true ↔ s.st ≠ 0 ∧ (tick s).st = 0) ∧
    SameExcept (fun f => f = .delay ∨ f = .sound ∨ f = .stopTone) s (tick s)

/-- An unrecognised word is reported on DIAG with its address, PC advances by 2, the tick runs, and nothing else changes
(30_encoding.md R68; 60_exceptions.md R145, R150; D22, D27). -/
def Obligations.UnrecognisedWordIsReportedAndSkipped : Prop :=
  ∀ (s : State) (op : Word), s.execState = .run → s.pc.toNat + 1 < 4096 →
    op = s.byte s.pc.toNat ++ s.byte (s.pc.toNat + 1) → decodeWord op = .error (.unrecognized op) →
    ∃ t, step s = .next t ∧ t.pc = s.pc + 2 ∧ t.diag = some { pc := s.pc, opcode := op } ∧
      t.dt.toNat = s.dt.toNat - 1 ∧ t.st.toNat = s.st.toNat - 1 ∧
      SameExcept (fun f => f = .pc ∨ f = .delay ∨ f = .sound ∨ f.ofInterface) s t

/-- In RUN, a fetch with PC or PC + 1 outside memory halts with FetchOutOfBounds, the PC and the opcode 0x0000; there is no tick,
no pulse and no other change (30_encoding.md R64; 60_exceptions.md R141 to R143; D3, D4, D33). -/
def Obligations.FetchOutsideMemoryHalts : Prop :=
  ∀ s : State, s.execState = .run → 0x0FFF ≤ s.pc.toNat →
    ∃ t, step s = .next t ∧ t.execState = .halt ∧
      t.fault = { code := .fetchOutOfBounds, pc := s.pc, opcode := 0x0000, info := 0 } ∧
      t.stopTone = false ∧ t.diag = none ∧
      SameExcept (fun f => f = .execState ∨ f = .fault ∨ f.ofInterface) s t

/-- HALT is absorbing: any number of cycles changes no state of the block and produces no pulse (60_exceptions.md R144; the spec's
decision D5). -/
def Obligations.HaltIsAbsorbing : Prop :=
  ∀ (s : State) (n : Nat), s.execState = .halt →
    ∃ t : State, Sys2Proof.core.run n s = .next t ∧ SameExcept Field.ofInterface s t ∧
      (0 < n → t.stopTone = false ∧ t.diag = none)

/-- In WAITKEY(x) nothing is fetched: without a key-press event only the timers move; an event writes the key to V[x], advances PC
and returns to RUN (44_keys_timers_memory.md R123; 60_exceptions.md R156; D8, D27). -/
def Obligations.KeyWaitEndsWithAKeyPress : Prop :=
  ∀ (s : State) (x : Nibble), s.execState = .waitKey x →
    ∃ t, step s = .next t ∧ t.dt.toNat = s.dt.toNat - 1 ∧ t.st.toNat = s.st.toNat - 1 ∧
      (s.input.event = none →
        SameExcept (fun f => f = .delay ∨ f = .sound ∨ f.ofInterface) s t) ∧
      (∀ k, s.input.event = some k →
        (t.reg x).toNat = k.toNat ∧ t.pc = s.pc + 2 ∧ t.execState = .run ∧
        SameExcept (fun f => f = .reg x ∨ f = .pc ∨ f = .execState ∨ f = .delay ∨ f = .sound ∨ f.ofInterface) s t)

/-- The block never stops by itself: every cycle, from every state, answers a next state (60_exceptions.md R143, R162). -/
def Obligations.EveryCycleAnswersANextState : Prop :=
  ∀ s : State, ∃ t, step s = .next t

/-- A fatal error is precise: the cycle that raises it changes nothing but EXEC and FAULT, gives no pulse, and records a legal cause
with the PC of the step and the word fetched, or 0x0000 where none could be (60_exceptions.md R141 to R143; the spec's decisions D3,
D4, D33). -/
def Obligations.FatalErrorIsPrecise : Prop :=
  ∀ s t : State, s.execState ≠ .halt → step s = .next t → t.execState = .halt →
    SameExcept (fun f => f = .execState ∨ f = .fault ∨ f.ofInterface) s t ∧
    t.stopTone = false ∧ t.diag = none ∧ t.fault.pc = s.pc ∧ t.fault.legal ∧
    (∀ op, fetchWord s = some op → t.fault.opcode = op) ∧ (fetchWord s = none → t.fault.opcode = 0x0000)

/-- An instruction raises a fatal error exactly on these operands (60_exceptions.md R141, R147; D6, D7): RET on an empty stack,
CALL on a full one, a key skip with V[x] above 15, a transfer with an address outside memory. -/
def Obligations.InstructionsHaltExactlyOnTheListedOperands : Prop :=
  ∀ (i : Instr) (s t : State), s.execState ≠ .halt → exec i s = .next t →
    (t.execState = .halt ↔
      (i = .ret ∧ s.sp.val = 0) ∨
      (∃ nnn, i = .call nnn ∧ s.sp.val = 16) ∨
      (∃ x, (i = .skp x ∨ i = .sknp x) ∧ 15 < (s.reg x).toNat) ∨
      (∃ x y n, i = .drw x y n ∧ n ≠ 0 ∧ 4096 ≤ s.i.toNat + n.toNat - 1) ∨
      (∃ x, i = .ldB x ∧ 4096 ≤ s.i.toNat + 2) ∨
      (∃ x, (i = .storeRegs x ∨ i = .loadRegs x) ∧ 4096 ≤ s.i.toNat + x.toNat))

/-- STOP_TONE comes from the tick's step of ST from 1 to 0 alone: a cycle pulses it only when it leaves ST at 0 and either ST was 1
before the cycle or the cycle ran FX18 with V[x] = 1; and a cycle that ran FX18 pulses only with V[x] = 1, so writing 0 over ST = 1
gives no pulse (60_exceptions.md R154; 44_keys_timers_memory.md R125; the spec's decision D31). -/
def Obligations.StopToneComesFromTheTickAlone : Prop :=
  ∀ s t : State, step s = .next t → t.stopTone = true →
    t.st = 0 ∧ t.tone = false ∧ t.execState ≠ .halt ∧
    (∀ x, s.execState = .run → fetchWord s = some (encode (.ldStVx x)) → s.reg x = 1) ∧
    (s.st = 1 ∨ ∃ x, s.execState = .run ∧ fetchWord s = some (encode (.ldStVx x)) ∧ s.reg x = 1)

/-! ### Reset, load and the host -/

/-- Reset, from any state and for any FONT_TABLE, gives every piece of state the value of 70_reset_and_hazards.md rule R171 (the
rows FB, DIRTY, EXEC and FAULT are the spec's decisions D5, D12, D33), memory reads as FONT_TABLE and MEM_INIT (R172, R173; D11,
D13), and there is no pulse (R170). That Reset applies from any state and that it gives no pulse are the spec's decision D37. -/
def Obligations.ResetGivesTheResetValues : Prop :=
  ∀ (s : State) (font : FontTable),
    (∀ k, (s.resetWith font).reg k = 0) ∧ (s.resetWith font).i = 0 ∧ (s.resetWith font).pc = 0x0200 ∧
    (∀ k, (s.resetWith font).stackEntry k = 0) ∧ (s.resetWith font).sp.val = 0 ∧
    (s.resetWith font).dt = 0 ∧ (s.resetWith font).st = 0 ∧
    (∀ c r, (s.resetWith font).pixel c r = false) ∧ (s.resetWith font).dirty = false ∧
    (s.resetWith font).execState = .run ∧
    (s.resetWith font).fault = { code := .none, pc := 0, opcode := 0, info := 0 } ∧
    (∀ b : Fin 80, (s.resetWith font).byte (0x050 + b.val) = font[b.val]) ∧
    (∀ a, a < 4096 → (a < 0x050 ∨ 0x0A0 ≤ a) → (s.resetWith font).byte a = Config.memInit a) ∧
    (s.resetWith font).stopTone = false ∧ (s.resetWith font).diag = none

/-- LoadProgram, where it is admitted, puts the bytes of the image at 0x200 upward and changes no other state; an image of more than
3584 bytes is a LoadCapacityError (70_reset_and_hazards.md R174, R175). Where it is admitted is R176's, the spec's decision D23; that
the admission is a field of the state and that the error has no next state are the model's choice (log entry 5). -/
def Obligations.LoadProgramWritesTheImage : Prop :=
  ∀ (s : State) (rom : List Byte), s.loadOpen = true →
    (3584 < rom.length → loadProgram rom s = .fault .loadCapacityError) ∧
    (rom.length ≤ 3584 → ∃ t, loadProgram rom s = .next t ∧
      (∀ k, (h : k < rom.length) → t.byte (0x200 + k) = rom[k]) ∧
      SameExcept (fun f => ∃ k, k < rom.length ∧ f = .byte (0x200 + k)) s t)

/-- After a cycle no load is admitted until the next Reset, after which one is (70_reset_and_hazards.md R176; the spec's decision
D23, log entry 5). -/
def Obligations.LoadIsAdmittedOnlyBetweenResetAndTheFirstCycle : Prop :=
  (∀ (s t : State) (rom : List Byte), step s = .next t → loadProgram rom t = .refused .loadNotAdmitted) ∧
  ∀ (s : State) (font : FontTable) (rom : List Byte), rom.length ≤ 3584 →
    ∃ t, loadProgram rom (s.resetWith font) = .next t

/-- ClearDirty clears DIRTY and nothing else (60_exceptions.md R158; D21). -/
def Obligations.ClearDirtyClearsOnlyDirty : Prop :=
  ∀ s : State, (clearDirty s).dirty = false ∧ SameExcept (fun f => f = .dirty) s (clearDirty s)

/-! ### Invariants -/

/-- Reset meets the block's invariant and the bound on PC, for any FONT_TABLE, and so does the state the machine starts in
(70_reset_and_hazards.md R170, R171; 10_state.md R23). EXEC = RUN and a clear FAULT at reset are the spec's decisions D5 and D33
(log entry 9); the canonical form of memory is the model's own (log entries 1 and 3). -/
def Obligations.ResetMeetsTheInvariants : Prop :=
  State.reset.Inv ∧ State.reset.PcBounded ∧
  ∀ (s : State) (font : FontTable), (s.resetWith font).Inv ∧ (s.resetWith font).PcBounded

/-- Every cycle keeps the invariant: memory stays canonical, FAULT is clear unless EXEC is HALT, and in HALT it is a legal record of
this PC (10_state.md R31; 60_exceptions.md R141 to R144; the spec's decisions D3 to D5, D33). The canonical form of memory is the
model's own choice, not the spec's (log entries 1 and 3). -/
def Obligations.StepKeepsTheInvariant : Prop :=
  ∀ s t : State, s.Inv → step s = .next t → t.Inv

/-- Every cycle keeps the bound on PC: no run takes PC past 0x10FE, so no sum of PC ever wraps (10_state.md R23, derived there). -/
def Obligations.StepKeepsThePcBound : Prop :=
  ∀ s t : State, s.PcBounded → step s = .next t → t.PcBounded

/-- The host's operations keep both invariants: a load, ClearDirty and the presenting of inputs (60_exceptions.md R158). The canonical
form of memory, the list of inputs and the form of a load's admission are the model's choices (log entries 1, 2 and 5). -/
def Obligations.HostOperationsKeepTheInvariants : Prop :=
  ∀ (s t : State) (rom : List Byte) (c : CycleInput), s.Inv → s.PcBounded →
    ((clearDirty s).Inv ∧ (clearDirty s).PcBounded) ∧
    ((presentInput c s).Inv ∧ (presentInput c s).PcBounded) ∧
    (loadProgram rom s = .next t → t.Inv ∧ t.PcBounded)

/-! ### Family 0, jump and call -/

/-- CLS clears every cell, sets DIRTY and advances PC; VF and EXEC stay (40_system_and_flow.md rule R80). -/
def Obligations.ClsClearsEveryCell : Prop :=
  decodeWord 0x00E0#16 = .ok .cls ∧
  ∀ s : State, ∃ t, exec .cls s = .next t ∧ (∀ c r, t.pixel c r = false) ∧ t.dirty = true ∧ t.pc = s.pc + 2 ∧
    t.reg 0xF = s.reg 0xF ∧ t.execState = s.execState

/-- SYS advances PC and changes nothing else, and its cycle reports nothing (40_system_and_flow.md R82; 30_encoding.md R69; D22). -/
def Obligations.SysOnlyAdvances : Prop :=
  ∀ (s : State) (nnn : Addr),
    (nnn ≠ 0x0E0 → nnn ≠ 0x0EE → decodeWord (0x0#4 ++ nnn) = .ok (.sys nnn)) ∧
    (∃ t, exec (.sys nnn) s = .next t ∧ t.pc = s.pc + 2 ∧ SameExcept (fun f => f = .pc) s t) ∧
    (∀ t, s.execState = .run → fetchWord s = some (0x0#4 ++ nnn) → step s = .next t → t.diag = none)

/-- JP goes to nnn; a target of 0xFFF leaves no word to fetch (40_system_and_flow.md rule R83). -/
def Obligations.JpGoesToItsTarget : Prop :=
  ∀ (s : State) (nnn : Addr),
    decodeWord (0x1#4 ++ nnn) = .ok (.jp nnn) ∧
    ∃ t, exec (.jp nnn) s = .next t ∧ t.pc.toNat = nnn.toNat ∧ t.reg 0xF = s.reg 0xF ∧
      t.execState = s.execState ∧ (nnn = 0xFFF → fetchWord t = none)

/-- CALL with room on the stack pushes PC + 2 and jumps; with a full stack it halts with StackOverflow and changes nothing else
(40_system_and_flow.md R84; 10_state.md R25; 60_exceptions.md R142, R143; D9, D33). -/
def Obligations.CallPushesAndJumps : Prop :=
  ∀ (s : State) (nnn : Addr),
    (s.sp.val < 16 → ∃ t, exec (.call nnn) s = .next t ∧ t.pc.toNat = nnn.toNat ∧ t.sp.val = s.sp.val + 1 ∧
      t.stackEntry (BitVec.ofNat 4 s.sp.val) = s.pc + 2 ∧
      SameExcept (fun f => f = .pc ∨ f = .sp ∨ f = .stackEntry (BitVec.ofNat 4 s.sp.val)) s t) ∧
    (s.sp.val = 16 → ∃ t, exec (.call nnn) s = .next t ∧ t.execState = .halt ∧
      t.fault = { code := .stackOverflow, pc := s.pc, opcode := 0x2#4 ++ nnn, info := 0 } ∧
      SameExcept (fun f => f = .execState ∨ f = .fault) s t)

/-- RET with an entry on the stack takes it as PC, and the entry keeps its value; with an empty stack it halts with StackUnderflow
and changes nothing else (40_system_and_flow.md R81; 10_state.md R25; 60_exceptions.md R142, R143; D9, D33). -/
def Obligations.RetPopsAndResumes : Prop :=
  ∀ s : State,
    (0 < s.sp.val → ∃ t, exec .ret s = .next t ∧ t.sp.val = s.sp.val - 1 ∧
      t.pc = s.stackEntry (BitVec.ofNat 4 (s.sp.val - 1)) ∧ SameExcept (fun f => f = .pc ∨ f = .sp) s t) ∧
    (s.sp.val = 0 → ∃ t, exec .ret s = .next t ∧ t.execState = .halt ∧
      t.fault = { code := .stackUnderflow, pc := s.pc, opcode := 0x00EE, info := 0 } ∧
      SameExcept (fun f => f = .execState ∨ f = .fault) s t)

/-- A RET that runs with the stack as a CALL left it, whatever ran between, goes to the word after the call and leaves SP as it was
before the call (40_system_and_flow.md R81, R84; 95_test_vectors.md E3). -/
def Obligations.RetAfterCallResumesAfterTheCall : Prop :=
  ∀ (s t u : State) (nnn : Addr), s.sp.val < 16 → exec (.call nnn) s = .next t →
    u.sp = t.sp → (∀ k, u.stackEntry k = t.stackEntry k) →
    ∃ v, exec .ret u = .next v ∧ v.pc = s.pc + 2 ∧ v.sp = s.sp

/-! ### Skips and immediates -/

/-- The four skips on registers: PC + 4 when the condition holds and PC + 2 when it does not, on unsigned equality alone; a skip
taken from 0x0FFB to 0x0FFE leaves no word to fetch (41_skips_and_immediates.md R90, R91, R92; 43_index_jump_random_draw.md R110;
the fetch after the skip: 30_encoding.md R64 and 70_reset_and_hazards.md R180, derived there). That 5XYn and 9XYn with n ≠ 0 are
unrecognised is the spec's choice (90_conflicts.md C2, D26; log entry 15). -/
def Obligations.SkipsTestTheirCondition : Prop :=
  ∀ (s : State) (x y : Nibble) (nn : Byte),
    decodeWord (0x3#4 ++ x ++ nn) = .ok (.seImm x nn) ∧ decodeWord (0x4#4 ++ x ++ nn) = .ok (.sneImm x nn) ∧
    decodeWord (0x5#4 ++ x ++ y ++ 0x0#4) = .ok (.seReg x y) ∧
    decodeWord (0x9#4 ++ x ++ y ++ 0x0#4) = .ok (.sneReg x y) ∧
    (∀ n : Nibble, n ≠ 0 → ∀ w : Word, w = 0x5#4 ++ x ++ y ++ n ∨ w = 0x9#4 ++ x ++ y ++ n →
      decodeWord w = .error (.unrecognized w)) ∧
    ∀ (i : Instr) (c : Prop),
      (i = .seImm x nn ∧ (c ↔ s.reg x = nn)) ∨ (i = .sneImm x nn ∧ (c ↔ s.reg x ≠ nn)) ∨
      (i = .seReg x y ∧ (c ↔ s.reg x = s.reg y)) ∨ (i = .sneReg x y ∧ (c ↔ s.reg x ≠ s.reg y)) →
      ∃ t, exec i s = .next t ∧ (c → t.pc = s.pc + 4) ∧ (¬ c → t.pc = s.pc + 2) ∧
        t.reg 0xF = s.reg 0xF ∧ t.execState = s.execState ∧
        (c → 0x0FFB ≤ s.pc.toNat → s.pc.toNat ≤ 0x0FFE → fetchWord t = none)

/-- 6XNN loads nn, 7XNN adds nn modulo 256 with no carry, 8XY0 copies V[y]; each advances PC, and VF changes only as the
destination (41_skips_and_immediates.md rules R93, R94; 42_alu.md rule R101). -/
def Obligations.LoadsAndAddImmediate : Prop :=
  ∀ (s : State) (x y : Nibble) (nn : Byte),
    decodeWord (0x6#4 ++ x ++ nn) = .ok (.ldImm x nn) ∧ decodeWord (0x7#4 ++ x ++ nn) = .ok (.addImm x nn) ∧
    decodeWord (0x8#4 ++ x ++ y ++ 0x0#4) = .ok (.ldReg x y) ∧
    (∃ t, exec (.ldImm x nn) s = .next t ∧ t.reg x = nn ∧ t.pc = s.pc + 2 ∧
      (x ≠ 0xF → t.reg 0xF = s.reg 0xF) ∧ t.execState = s.execState) ∧
    (∃ t, exec (.addImm x nn) s = .next t ∧ (t.reg x).toNat = ((s.reg x).toNat + nn.toNat) % 256 ∧ t.pc = s.pc + 2 ∧
      (x ≠ 0xF → t.reg 0xF = s.reg 0xF) ∧ t.execState = s.execState) ∧
    (∃ t, exec (.ldReg x y) s = .next t ∧ t.reg x = s.reg y ∧ t.pc = s.pc + 2 ∧
      (x ≠ 0xF → t.reg 0xF = s.reg 0xF) ∧ t.execState = s.execState)

/-! ### Register ALU -/

/-- 8XY1, 8XY2, 8XY3 write the bitwise OR, AND and XOR to V[x], advance PC and change nothing else; VF is not reset (42_alu.md
R102 to R104; the spec's decision D18). -/
def Obligations.LogicWritesOnlyItsDestination : Prop :=
  ∀ (s : State) (x y : Nibble) (i : Instr) (b : Byte),
    (i = .orReg x y ∧ b = s.reg x ||| s.reg y) ∨ (i = .andReg x y ∧ b = s.reg x &&& s.reg y) ∨
    (i = .xorReg x y ∧ b = s.reg x ^^^ s.reg y) →
    ∃ t, exec i s = .next t ∧ t.reg x = b ∧ t.pc = s.pc + 2 ∧
      SameExcept (fun f => f = .reg x ∨ f = .pc) s t

/-- 8XY4, 8XY5, 8XY7: the result modulo 256 in V[x] and the carry or no-borrow flag in VF, both from the operands as they were; with
x = F the flag wins (42_alu.md rules R105, R106, R108). -/
def Obligations.AddAndSubtractSetTheirFlag : Prop :=
  ∀ (s : State) (x y : Nibble),
    decodeWord (0x8#4 ++ x ++ y ++ 0x4#4) = .ok (.addReg x y) ∧
    decodeWord (0x8#4 ++ x ++ y ++ 0x5#4) = .ok (.subReg x y) ∧
    decodeWord (0x8#4 ++ x ++ y ++ 0x7#4) = .ok (.subnReg x y) ∧
    (∃ t, exec (.addReg x y) s = .next t ∧
      (x ≠ 0xF → (t.reg x).toNat = ((s.reg x).toNat + (s.reg y).toNat) % 256) ∧
      t.reg 0xF = (if 255 < (s.reg x).toNat + (s.reg y).toNat then 1 else 0) ∧
      t.pc = s.pc + 2 ∧ t.execState = s.execState) ∧
    (∃ t, exec (.subReg x y) s = .next t ∧
      (x ≠ 0xF → (t.reg x).toNat = ((s.reg x).toNat + 256 - (s.reg y).toNat) % 256) ∧
      t.reg 0xF = (if (s.reg y).toNat ≤ (s.reg x).toNat then 1 else 0) ∧
      t.pc = s.pc + 2 ∧ t.execState = s.execState) ∧
    (∃ t, exec (.subnReg x y) s = .next t ∧
      (x ≠ 0xF → (t.reg x).toNat = ((s.reg y).toNat + 256 - (s.reg x).toNat) % 256) ∧
      t.reg 0xF = (if (s.reg x).toNat ≤ (s.reg y).toNat then 1 else 0) ∧
      t.pc = s.pc + 2 ∧ t.execState = s.execState)

/-- 8XY6 and 8XYE shift V[x] by one bit, VF takes the bit shifted out, with x = F the flag wins, and the y field is ignored
(42_alu.md rules R107, R109). -/
def Obligations.ShiftsSetTheBitShiftedOut : Prop :=
  ∀ (s : State) (x y : Nibble),
    decodeWord (0x8#4 ++ x ++ y ++ 0x6#4) = .ok (.shr x y) ∧ decodeWord (0x8#4 ++ x ++ y ++ 0xE#4) = .ok (.shl x y) ∧
    (∃ t, exec (.shr x y) s = .next t ∧ (x ≠ 0xF → (t.reg x).toNat = (s.reg x).toNat / 2) ∧
      (t.reg 0xF).toNat = (s.reg x).toNat % 2 ∧ t.pc = s.pc + 2 ∧ t.execState = s.execState) ∧
    (∃ t, exec (.shl x y) s = .next t ∧ (x ≠ 0xF → (t.reg x).toNat = (s.reg x).toNat * 2 % 256) ∧
      (t.reg 0xF).toNat = (s.reg x).toNat / 128 ∧ t.pc = s.pc + 2 ∧ t.execState = s.execState) ∧
    ∀ z, exec (.shr x z) s = exec (.shr x y) s ∧ exec (.shl x z) s = exec (.shl x y) s

/-! ### Index, indexed jump, random, draw -/

/-- ANNN loads the 12-bit immediate into I with its high bits 0 and advances PC (43_index_jump_random_draw.md rule R111). -/
def Obligations.LdILoadsTheImmediate : Prop :=
  ∀ (s : State) (nnn : Addr),
    decodeWord (0xA#4 ++ nnn) = .ok (.ldI nnn) ∧
    ∃ t, exec (.ldI nnn) s = .next t ∧ t.i.toNat = nnn.toNat ∧ t.pc = s.pc + 2 ∧ t.reg 0xF = s.reg 0xF ∧
      t.execState = s.execState

/-- BNNN jumps to V0 + nnn, which is not masked to 12 bits and never wraps; a target of 0x0FFF or more leaves no word to fetch
(43_index_jump_random_draw.md rule R112). -/
def Obligations.JpV0AddsV0 : Prop :=
  ∀ (s : State) (nnn : Addr),
    decodeWord (0xB#4 ++ nnn) = .ok (.jpV0 nnn) ∧
    ∃ t, exec (.jpV0 nnn) s = .next t ∧ t.pc.toNat = (s.reg 0).toNat + nnn.toNat ∧ t.reg 0xF = s.reg 0xF ∧
      t.execState = s.execState ∧ (0x0FFF ≤ t.pc.toNat → fetchWord t = none)

/-- CXNN writes this cycle's random byte ANDed with nn and changes nothing else but PC (43_index_jump_random_draw.md R113). RAND is an
open input (D17, log entry 2): the statement holds whatever the host presents, and whatever the free value is. -/
def Obligations.RndMasksTheRandomByte : Prop :=
  ∀ (s : State) (x : Nibble) (nn : Byte),
    ∃ t, exec (.rnd x nn) s = .next t ∧ t.reg x = s.input.rand &&& nn ∧ t.pc = s.pc + 2 ∧
      SameExcept (fun f => f = .reg x ∨ f = .pc) s t ∧
      ∀ c rest, s.inputs = c :: rest → t.reg x = c.rand &&& nn

/-- DXYN with its rows in memory XORs the sprite onto the framebuffer, wrapping at both edges; VF is 1 exactly when a set cell is
covered by a set sprite bit, else 0; DIRTY is set, PC advances, and nothing else changes (43_index_jump_random_draw.md R114).
Bit 7 of a sprite byte is its leftmost column by the spec's decision D14 (log entry 4). -/
def Obligations.DrawXorsTheSprite : Prop :=
  ∀ (s : State) (x y n : Nibble), s.inMemory n.toNat →
    ∃ t, exec (.drw x y n) s = .next t ∧
      (∀ c r, t.pixel c r = (s.pixel c r ^^ s.spriteCell x y n c r)) ∧
      ((∃ c r, s.pixel c r = true ∧ s.spriteCell x y n c r = true) → t.reg 0xF = 1) ∧
      ((¬ ∃ c r, s.pixel c r = true ∧ s.spriteCell x y n c r = true) → t.reg 0xF = 0) ∧
      t.dirty = true ∧ t.pc = s.pc + 2 ∧
      SameExcept (fun f => (∃ c r, f = .pixel c r) ∨ f = .dirty ∨ f = .reg 0xF ∨ f = .pc) s t

/-- Drawing the same sprite twice at the same place restores the framebuffer, and the second draw sets VF exactly when a covered
cell was clear before the first (43_index_jump_random_draw.md R114; 90_conflicts.md C4; D14). -/
def Obligations.DrawTwiceRestoresTheFramebuffer : Prop :=
  ∀ (s : State) (x y n : Nibble), s.inMemory n.toNat →
    ∃ t, exec (.drw x y n) s = .next t ∧
      (t.reg x = s.reg x → t.reg y = s.reg y →
        ∃ u, exec (.drw x y n) t = .next u ∧ (∀ c r, u.pixel c r = s.pixel c r) ∧
          (u.reg 0xF = 1 ↔ ∃ c r, s.pixel c r = false ∧ s.spriteCell x y n c r = true))

/-! ### Keys and timers -/

/-- EX9E and EXA1 with a key index of at most 15 skip on the key's level in this cycle, the one where the key is down and the other
where it is up, and change PC alone (44_keys_timers_memory.md R120, R121; D7, D28). -/
def Obligations.KeySkipsTestTheKey : Prop :=
  ∀ (s : State) (x k : Nibble), (s.reg x).toNat = k.toNat →
    (∃ t, exec (.skp x) s = .next t ∧ t.pc = (if s.input.keys.getLsbD k.toNat then s.pc + 4 else s.pc + 2) ∧
      SameExcept (fun f => f = .pc) s t) ∧
    (∃ t, exec (.sknp x) s = .next t ∧ t.pc = (if s.input.keys.getLsbD k.toNat then s.pc + 2 else s.pc + 4) ∧
      SameExcept (fun f => f = .pc) s t)

/-- EX9E and EXA1 with V[x] above 15 halt with KeyIndexOutOfRange and V[x], and change nothing else (44_keys_timers_memory.md R120,
R121; 60_exceptions.md R141 to R143): the fault is the spec's decision D7. -/
def Obligations.KeySkipsHaltAboveKeyF : Prop :=
  ∀ (s : State) (x : Nibble), 15 < (s.reg x).toNat →
    (∃ t, exec (.skp x) s = .next t ∧ t.execState = .halt ∧ t.fault.code = .keyIndexOutOfRange ∧ t.fault.pc = s.pc ∧
      t.fault.opcode = 0xE#4 ++ x ++ 0x9E#8 ∧ t.fault.info.toNat = (s.reg x).toNat ∧
      SameExcept (fun f => f = .execState ∨ f = .fault) s t) ∧
    (∃ t, exec (.sknp x) s = .next t ∧ t.execState = .halt ∧ t.fault.code = .keyIndexOutOfRange ∧ t.fault.pc = s.pc ∧
      t.fault.opcode = 0xE#4 ++ x ++ 0xA1#8 ∧ t.fault.info.toNat = (s.reg x).toNat ∧
      SameExcept (fun f => f = .execState ∨ f = .fault) s t)

/-- FX0A with a key-press event completes in its first cycle; without one it starts the wait, with PC in place. A key merely held
does not count (44_keys_timers_memory.md R123; the spec's decision D8). -/
def Obligations.LdVxKTakesAKeyPress : Prop :=
  ∀ (s : State) (x : Nibble),
    (∀ k, s.input.event = some k → ∃ t, exec (.ldVxK x) s = .next t ∧ (t.reg x).toNat = k.toNat ∧ t.pc = s.pc + 2 ∧
      SameExcept (fun f => f = .reg x ∨ f = .pc) s t) ∧
    (s.input.event = none → ∃ t, exec (.ldVxK x) s = .next t ∧ t.execState = .waitKey x ∧
      SameExcept (fun f => f = .execState) s t)

/-- FX07 reads DT, FX15 and FX18 write DT and ST; each advances PC and changes nothing else. The tick of the same cycle follows, so
DT read is the value before it, and a value written is one less after the cycle (44_keys_timers_memory.md R122, R124, R125;
70_reset_and_hazards.md R179; D18, D27, D31). -/
def Obligations.TimerTransfersComeBeforeTheTick : Prop :=
  ∀ (s : State) (x : Nibble), s.execState ≠ .halt →
    (∃ t, exec (.ldVxDt x) s = .next t ∧ t.reg x = s.dt ∧ t.pc = s.pc + 2 ∧
      SameExcept (fun f => f = .reg x ∨ f = .pc) s t ∧
      (completeCycle none t).reg x = s.dt ∧ (completeCycle none t).dt.toNat = s.dt.toNat - 1) ∧
    (∃ t, exec (.ldDtVx x) s = .next t ∧ t.dt = s.reg x ∧ t.pc = s.pc + 2 ∧
      SameExcept (fun f => f = .delay ∨ f = .pc) s t ∧ (completeCycle none t).dt.toNat = (s.reg x).toNat - 1) ∧
    (∃ t, exec (.ldStVx x) s = .next t ∧ t.st = s.reg x ∧ t.pc = s.pc + 2 ∧
      SameExcept (fun f => f = .sound ∨ f = .pc) s t ∧ (completeCycle none t).st.toNat = (s.reg x).toNat - 1 ∧
      ((completeCycle none t).stopTone = true ↔ s.reg x = 1))

/-- FX1E adds V[x] to I modulo 65536 and FX29 points I at 0x050 + 5·V[x], not masked; neither touches VF or anything else but PC
(44_keys_timers_memory.md R126, R127; D18). -/
def Obligations.IndexArithmetic : Prop :=
  ∀ (s : State) (x : Nibble),
    (∃ t, exec (.addI x) s = .next t ∧ t.i.toNat = (s.i.toNat + (s.reg x).toNat) % 65536 ∧ t.pc = s.pc + 2 ∧
      SameExcept (fun f => f = .index ∨ f = .pc) s t) ∧
    (∃ t, exec (.ldF x) s = .next t ∧ t.i.toNat = 0x050 + 5 * (s.reg x).toNat ∧ t.pc = s.pc + 2 ∧
      SameExcept (fun f => f = .index ∨ f = .pc) s t)

/-! ### Memory transfers -/

/-- FX33 with its three addresses in memory stores the decimal digits of V[x] at I, I+1, I+2, advances PC and changes nothing else
(44_keys_timers_memory.md R128; D6, D18). -/
def Obligations.LdBStoresTheDecimalDigits : Prop :=
  ∀ (s : State) (x : Nibble), s.inMemory 3 →
    ∃ t, exec (.ldB x) s = .next t ∧ (t.byte s.i.toNat).toNat = (s.reg x).toNat / 100 ∧
      (t.byte (s.i.toNat + 1)).toNat = (s.reg x).toNat / 10 % 10 ∧
      (t.byte (s.i.toNat + 2)).toNat = (s.reg x).toNat % 10 ∧ t.pc = s.pc + 2 ∧
      SameExcept (fun f => f = .pc ∨ ∃ k, k < 3 ∧ f = .byte (s.i.toNat + k)) s t

/-- FX55 with its addresses in memory stores V0 to V[x] at I, I+1, …, advances PC and changes nothing else, I included
(44_keys_timers_memory.md R129; D6, D18). -/
def Obligations.StoreRegsStoresV0ToVx : Prop :=
  ∀ (s : State) (x : Nibble), s.inMemory (x.toNat + 1) →
    ∃ t, exec (.storeRegs x) s = .next t ∧
      (∀ k : Nibble, k.toNat ≤ x.toNat → t.byte (s.i.toNat + k.toNat) = s.reg k) ∧ t.pc = s.pc + 2 ∧
      SameExcept (fun f => f = .pc ∨ ∃ k, k ≤ x.toNat ∧ f = .byte (s.i.toNat + k)) s t

/-- FX65 with its addresses in memory loads V0 to V[x] from I, I+1, …, advances PC and changes nothing else, I included
(44_keys_timers_memory.md R130; D6, D18). -/
def Obligations.LoadRegsLoadsV0ToVx : Prop :=
  ∀ (s : State) (x : Nibble), s.inMemory (x.toNat + 1) →
    ∃ t, exec (.loadRegs x) s = .next t ∧
      (∀ k : Nibble, k.toNat ≤ x.toNat → t.reg k = s.byte (s.i.toNat + k.toNat)) ∧ t.pc = s.pc + 2 ∧
      SameExcept (fun f => f = .pc ∨ ∃ k : Nibble, k.toNat ≤ x.toNat ∧ f = .reg k) s t

/-- A transfer of `n` bytes at I with one outside memory halts with MemoryOutOfBounds and the lowest offending address, and changes
nothing else: DXYN of n rows, FX33, FX55 and FX65 (20_memory.md R46; 60_exceptions.md R141 to R143; the spec's decision D6). -/
def Obligations.TransfersOutsideMemoryHalt : Prop :=
  ∀ (s : State) (i : Instr) (n : Nat),
    (∃ x y m, i = .drw x y m ∧ n = m.toNat) ∨ (∃ x, i = .ldB x ∧ n = 3) ∨
      (∃ x, (i = .storeRegs x ∨ i = .loadRegs x) ∧ n = x.toNat + 1) →
    ¬ s.inMemory n →
    ∃ t, exec i s = .next t ∧ t.execState = .halt ∧ t.fault.code = .memoryOutOfBounds ∧ t.fault.pc = s.pc ∧
      t.fault.opcode = encode i ∧
      (∃ a k, t.fault.info.toNat = a ∧ a = s.i.toNat + k ∧ k < n ∧ 4096 ≤ a ∧ ∀ j, j < k → s.i.toNat + j < 4096) ∧
      SameExcept (fun f => f = .execState ∨ f = .fault) s t

/-- FX33 and then FX65 to V2 from the same I give back three digits that make up the value stored (44_keys_timers_memory.md R128,
R130; 95_test_vectors.md P3). -/
def Obligations.DigitsStoredAndLoadedMakeUpTheValue : Prop :=
  ∀ (s : State) (x : Nibble), s.inMemory 3 →
    ∃ t u, exec (.ldB x) s = .next t ∧ exec (.loadRegs 2) t = .next u ∧
      100 * (u.reg 0).toNat + 10 * (u.reg 1).toNat + (u.reg 2).toNat = (s.reg x).toNat ∧
      (u.reg 1).toNat ≤ 9 ∧ (u.reg 2).toNat ≤ 9

/-- FX55 and later FX65 to the same V[x], from the same I and with those bytes untouched between, give every register from V0 to V[x]
its value back, whatever the registers hold in between (44_keys_timers_memory.md R129, R130). -/
def Obligations.StoredRegistersLoadBack : Prop :=
  ∀ (s t u : State) (x : Nibble), s.inMemory (x.toNat + 1) → exec (.storeRegs x) s = .next t →
    u.i = t.i → (∀ k, k ≤ x.toNat → u.byte (t.i.toNat + k) = t.byte (t.i.toNat + k)) →
    ∃ v, exec (.loadRegs x) u = .next v ∧ ∀ k : Nibble, k.toNat ≤ x.toNat → v.reg k = s.reg k

/-- Fetch is coherent with stores: an FX55 that stores over the next word makes the next fetch read V0 and V1, V0 as the high byte
(20_memory.md R47, R52; derived there). -/
def Obligations.StoredBytesAreFetchedNext : Prop :=
  ∀ (s : State) (x : Nibble), 1 ≤ x.toNat → s.inMemory (x.toNat + 1) → s.i = s.pc + 2 →
    ∃ t, exec (.storeRegs x) s = .next t ∧ fetchWord t = some (s.reg 0 ++ s.reg 1)

/-! ### Frames and whole-machine rules -/

/-- The instructions that write V[x]: 6XNN, 7XNN, 8XY0 to 8XY3, CXNN and FX07 change V[x] and PC alone; 8XY4 to 8XY7 and 8XYE change
V[x], VF and PC alone; FX0A changes V[x], PC and EXEC alone; FX65 changes V0 to V[x] and PC, or EXEC and FAULT, alone (00_scope.md
R10, the spec's decision D18; 10_state.md R20, R21). FX0A's two outcomes are told apart in `LdVxKTakesAKeyPress`, and FX65's in
`LoadRegsLoadsV0ToVx` and `TransfersOutsideMemoryHalt`. -/
def Obligations.RegisterInstructionsChangeOnlyTheirTargets : Prop :=
  ∀ (s t : State) (i : Instr) (x : Nibble), exec i s = .next t →
    (plainDestination i = some x → SameExcept (fun f => f = .reg x ∨ f = .pc) s t) ∧
    (flaggedDestination i = some x → SameExcept (fun f => f = .reg x ∨ f = .reg 0xF ∨ f = .pc) s t) ∧
    (i = .ldVxK x → SameExcept (fun f => f = .reg x ∨ f = .pc ∨ f = .execState) s t) ∧
    (i = .loadRegs x →
      SameExcept (fun f => f = .pc ∨ ∃ k : Nibble, k.toNat ≤ x.toNat ∧ f = .reg k) s t ∨
      SameExcept (fun f => f = .execState ∨ f = .fault) s t)

/-- A jump or a skip on registers changes PC alone, ANNN changes I and PC, CLS the framebuffer, DIRTY and PC (00_scope.md R10, the
spec's decision D18). -/
def Obligations.FlowAndClearChangeOnlyTheirTargets : Prop :=
  ∀ (s t : State) (i : Instr), exec i s = .next t →
    ((∃ nnn, i = .sys nnn ∨ i = .jp nnn ∨ i = .jpV0 nnn) ∨ (∃ x nn, i = .seImm x nn ∨ i = .sneImm x nn) ∨
        (∃ x y, i = .seReg x y ∨ i = .sneReg x y) → SameExcept (fun f => f = .pc) s t) ∧
    ((∃ nnn, i = .ldI nnn) → SameExcept (fun f => f = .index ∨ f = .pc) s t) ∧
    (i = .cls → SameExcept (fun f => (∃ c r, f = .pixel c r) ∨ f = .dirty ∨ f = .pc) s t)

/-- Which instructions can change which state, over all 35 and for every piece of state but PC (00_scope.md R10, D18; 10_state.md R20 to
R22, R24 to R31; 20_memory.md R49): each V[k], I, STACK and SP, the timers, the display, memory; EXEC changes only by FX0A's wait or
to HALT, and FAULT only where EXEC is then HALT (D5, D33). The outputs and the host's side, the model's own fields (log entries 2, 5,
6), are changed by no instruction. -/
def Obligations.OnlyTheNamedInstructionsChangeEachState : Prop :=
  ∀ (i : Instr) (s t : State), exec i s = .next t →
    (∀ k, t.reg k ≠ s.reg k → plainDestination i = some k ∨ flaggedDestination i = some k ∨
      (k = 0xF ∧ (flaggedDestination i ≠ none ∨ ∃ x y n, i = .drw x y n)) ∨ i = .ldVxK k ∨
      ∃ x, i = .loadRegs x ∧ k.toNat ≤ x.toNat) ∧
    (t.i ≠ s.i → (∃ nnn, i = .ldI nnn) ∨ ∃ x, i = .addI x ∨ i = .ldF x) ∧
    (t.sp ≠ s.sp → i = .ret ∨ ∃ nnn, i = .call nnn) ∧
    ((∃ k, t.stackEntry k ≠ s.stackEntry k) → ∃ nnn, i = .call nnn) ∧
    (t.dt ≠ s.dt → ∃ x, i = .ldDtVx x) ∧ (t.st ≠ s.st → ∃ x, i = .ldStVx x) ∧
    (t.dirty ≠ s.dirty ∨ (∃ c r, t.pixel c r ≠ s.pixel c r) → i = .cls ∨ ∃ x y n, i = .drw x y n) ∧
    ((∃ a, t.byte a ≠ s.byte a) → ∃ x, i = .ldB x ∨ i = .storeRegs x) ∧
    (t.execState ≠ s.execState → (∃ x, i = .ldVxK x ∧ t.execState = .waitKey x) ∨ t.execState = .halt) ∧
    (t.fault ≠ s.fault → t.execState = .halt) ∧
    ∀ f : Field, f.ofInterface → Field.same s t f

/-! ### Outputs -/

/-- The STATUS output gives EXEC as its kind and its register, 00 for RUN, 01 for WAITKEY(x), 10 for HALT, and FAULT as its code, 0 to 5
in the order of the table, its pc, its opcode and its info; TONE is 1 exactly when ST is not 0; and the outputs carry both
(10_state.md R30, R31; 60_exceptions.md R141, R153, R157). The codes, the kinds and the driving of TONE beside STOP_TONE are the
spec's decisions D3, D33 and D20. -/
def Obligations.StatusAndToneReportTheState : Prop :=
  ∀ s : State,
    (s.execState = .run → s.status.kind = 0b00#2 ∧ s.status.x = 0) ∧
    (∀ x, s.execState = .waitKey x → s.status.kind = 0b01#2 ∧ s.status.x = x) ∧
    (s.execState = .halt → s.status.kind = 0b10#2 ∧ s.status.x = 0) ∧
    (s.fault.code = .none → s.status.code = 0) ∧ (s.fault.code = .fetchOutOfBounds → s.status.code = 1) ∧
    (s.fault.code = .stackOverflow → s.status.code = 2) ∧ (s.fault.code = .stackUnderflow → s.status.code = 3) ∧
    (s.fault.code = .memoryOutOfBounds → s.status.code = 4) ∧ (s.fault.code = .keyIndexOutOfRange → s.status.code = 5) ∧
    s.status.pc = s.fault.pc ∧ s.status.opcode = s.fault.opcode ∧ s.status.info = s.fault.info ∧
    (s.tone = true ↔ s.st ≠ 0) ∧
    s.outputs.status = s.status ∧ s.outputs.tone = s.tone ∧ s.outputs.stopTone = s.stopTone ∧ s.outputs.diag = s.diag ∧
    s.outputs.dirty = s.dirty ∧ ∀ c r, Framebuffer.pixel s.outputs.fb c r = s.pixel c r
end

