-- ==== Sys2Proof/Laws/Encoding.lean ====
section
/-! SUPPORT. The fields of a word put together from fields (30_encoding.md rules R61, R62): the three layouts the formats use. -/

namespace Sys2Proof

/-! ### Fields of two parts put together -/

/-- A field that lies in the upper part. -/
theorem extract_upper {n m : Nat} (x : BitVec n) (y : BitVec m) (k len : Nat) :
    (x ++ y).extractLsb' (m + k) len = x.extractLsb' k len := by
  ext i hi
  have h1 : ¬ m + k + i < m := by omega
  have h2 : m + k + i - m = k + i := by omega
  simp [BitVec.getLsbD_append, h1, h2]

/-- A field that lies in the lower part. -/
theorem extract_lower {n m : Nat} (x : BitVec n) (y : BitVec m) (k len : Nat) (h : k + len ≤ m) :
    (x ++ y).extractLsb' k len = y.extractLsb' k len := by
  ext i hi
  have h1 : k + i < m := by omega
  simp [BitVec.getLsbD_append, h1]

theorem extract_whole {n : Nat} (x : BitVec n) : x.extractLsb' 0 n = x := by
  ext i hi
  simp

/-! ### `ffff nnnn nnnn nnnn` -/

@[simp] theorem opFamily_nnn (f : Nibble) (nnn : Addr) : opFamily (f ++ nnn) = f :=
  (extract_upper f nnn 0 4).trans (extract_whole f)

@[simp] theorem opNNN_nnn (f : Nibble) (nnn : Addr) : opNNN (f ++ nnn) = nnn :=
  (extract_lower f nnn 0 12 (by omega)).trans (extract_whole nnn)

/-! ### `ffff xxxx nnnn nnnn` -/

@[simp] theorem opFamily_xnn (f x : Nibble) (nn : Byte) : opFamily (f ++ x ++ nn) = f :=
  (extract_upper (f ++ x) nn 4 4).trans ((extract_upper f x 0 4).trans (extract_whole f))

@[simp] theorem opX_xnn (f x : Nibble) (nn : Byte) : opX (f ++ x ++ nn) = x :=
  (extract_upper (f ++ x) nn 0 4).trans ((extract_lower f x 0 4 (by omega)).trans (extract_whole x))

@[simp] theorem opNN_xnn (f x : Nibble) (nn : Byte) : opNN (f ++ x ++ nn) = nn :=
  (extract_lower (f ++ x) nn 0 8 (by omega)).trans (extract_whole nn)

/-! ### `ffff xxxx yyyy nnnn` -/

@[simp] theorem opFamily_xyn (f x y n : Nibble) : opFamily (f ++ x ++ y ++ n) = f :=
  (extract_upper (f ++ x ++ y) n 8 4).trans ((extract_upper (f ++ x) y 4 4).trans
    ((extract_upper f x 0 4).trans (extract_whole f)))

@[simp] theorem opX_xyn (f x y n : Nibble) : opX (f ++ x ++ y ++ n) = x :=
  (extract_upper (f ++ x ++ y) n 4 4).trans ((extract_upper (f ++ x) y 0 4).trans
    ((extract_lower f x 0 4 (by omega)).trans (extract_whole x)))

@[simp] theorem opY_xyn (f x y n : Nibble) : opY (f ++ x ++ y ++ n) = y :=
  (extract_upper (f ++ x ++ y) n 0 4).trans ((extract_lower (f ++ x) y 0 4 (by omega)).trans (extract_whole y))

@[simp] theorem opN_xyn (f x y n : Nibble) : opN (f ++ x ++ y ++ n) = n :=
  (extract_lower (f ++ x ++ y) n 0 4 (by omega)).trans (extract_whole n)

/-! ### A word is its fields put together, and a nibble is one of sixteen -/

/-- Two neighbouring fields put together again. -/
theorem append_extract {w : Nat} (v : BitVec w) (k a b : Nat) :
    v.extractLsb' (k + b) a ++ v.extractLsb' k b = v.extractLsb' k (a + b) := by
  ext i hi
  simp only [BitVec.getElem_append, BitVec.getElem_extractLsb']
  split
  · rfl
  · next h => rw [show k + b + (i - b) = k + i by omega]

theorem word_eq_nnn (w : Word) : opFamily w ++ opNNN w = w := (append_extract w 0 4 12).trans (extract_whole w)

theorem word_eq_xnn (w : Word) : opFamily w ++ opX w ++ opNN w = w := by
  have h : opFamily w ++ opX w = w.extractLsb' 8 8 := append_extract w 8 4 4
  rw [h]
  exact (append_extract w 0 8 8).trans (extract_whole w)

theorem word_eq_xyn (w : Word) : opFamily w ++ opX w ++ opY w ++ opN w = w := by
  have h1 : opFamily w ++ opX w = w.extractLsb' 8 8 := append_extract w 8 4 4
  have h2 : w.extractLsb' 8 8 ++ opY w = w.extractLsb' 4 12 := append_extract w 4 8 4
  rw [h1, h2]
  exact (append_extract w 0 12 4).trans (extract_whole w)

/-- The sixteen nibbles: a family or a low nibble is one of them. -/
theorem nibble_cases (f : Nibble) :
    f = 0x0#4 ∨ f = 0x1#4 ∨ f = 0x2#4 ∨ f = 0x3#4 ∨ f = 0x4#4 ∨ f = 0x5#4 ∨ f = 0x6#4 ∨ f = 0x7#4 ∨
    f = 0x8#4 ∨ f = 0x9#4 ∨ f = 0xA#4 ∨ f = 0xB#4 ∨ f = 0xC#4 ∨ f = 0xD#4 ∨ f = 0xE#4 ∨ f = 0xF#4 := by
  rcases f with ⟨⟨n, h⟩⟩
  interval_cases n <;> decide +revert

/-! ### The two bytes of a word -/

@[simp] theorem highByte_wordOfBytes (hi lo : Byte) : highByte (wordOfBytes hi lo) = hi :=
  (extract_upper hi lo 0 8).trans (extract_whole hi)

@[simp] theorem lowByte_wordOfBytes (hi lo : Byte) : lowByte (wordOfBytes hi lo) = lo :=
  (extract_lower hi lo 0 8 (by omega)).trans (extract_whole lo)

@[simp] theorem wordOfBytes_high_low (w : Word) : wordOfBytes (highByte w) (lowByte w) = w :=
  (append_extract w 0 8 8).trans (extract_whole w)

end Sys2Proof
end

