-- ==== Sys2Proof/Laws/Memory.lean ====
section
/-! SUPPORT. Memory: a read after a write, that every operation keeps the canonical form, and that in that form a memory is known
by its listed values. -/

namespace Sys2Proof.Machine

/-! ### `find` after each list operation -/

theorem find_insert_same (m : Memory) (a : Nat) (v : Byte) : (m.insert a v).find a = some v := by
  induction m with
  | nil => simp [Memory.insert, Memory.find]
  | cons c m ih =>
    obtain ⟨b, w⟩ := c
    simp only [Memory.insert]
    split
    · simp [Memory.find]
    · split
      · simp [Memory.find]
      · next h => simp [Memory.find, h, ih]

theorem find_insert_other (m : Memory) {a b : Nat} (v : Byte) (h : b ≠ a) : (m.insert a v).find b = m.find b := by
  induction m with
  | nil => simp [Memory.insert, Memory.find, h]
  | cons c m ih =>
    obtain ⟨c, w⟩ := c
    simp only [Memory.insert]
    split
    · simp [Memory.find, h]
    · split
      · next hac => subst hac; simp [Memory.find, h]
      · simp [Memory.find, ih]

theorem find_erase_other (m : Memory) {a b : Nat} (h : b ≠ a) : (m.erase a).find b = m.find b := by
  induction m with
  | nil => rfl
  | cons c m ih =>
    obtain ⟨c, w⟩ := c
    simp only [Memory.erase]
    split
    · next hac => subst hac; simp [Memory.find, h, ih]
    · simp [Memory.find, ih]

theorem risesAbove_weaken {lo lo' : Nat} (h : lo' ≤ lo) {m : Memory} (hm : m.risesAbove lo = true) :
    m.risesAbove lo' = true := by
  cases m with
  | nil => rfl
  | cons c m =>
    obtain ⟨a, v⟩ := c
    simp only [Memory.risesAbove, Bool.and_eq_true, decide_eq_true_eq] at *
    exact ⟨by omega, hm.2⟩

theorem find_none_of_risesAbove {lo a : Nat} (h : a ≤ lo) {m : Memory} (hm : m.risesAbove lo = true) :
    m.find a = none := by
  induction m generalizing lo with
  | nil => rfl
  | cons c m ih =>
    obtain ⟨b, v⟩ := c
    simp only [Memory.risesAbove, Bool.and_eq_true, decide_eq_true_eq] at hm
    have hne : a ≠ b := by omega
    simpa [Memory.find, hne] using ih (by omega) hm.2

theorem risesAbove_insert {lo : Nat} {m : Memory} (a : Nat) (v : Byte) (hlo : lo < a) (hm : m.risesAbove lo = true) :
    (m.insert a v).risesAbove lo = true := by
  induction m generalizing lo with
  | nil => simp [Memory.insert, Memory.risesAbove, hlo]
  | cons c m ih =>
    obtain ⟨b, w⟩ := c
    simp only [Memory.risesAbove, Bool.and_eq_true, decide_eq_true_eq] at hm
    simp only [Memory.insert]
    split
    · next h => simp [Memory.risesAbove, hlo, h, hm.2]
    · split
      · next h => subst h; simp [Memory.risesAbove, hlo, hm.2]
      · simp only [Memory.risesAbove, Bool.and_eq_true, decide_eq_true_eq]
        exact ⟨hm.1, ih (by omega) hm.2⟩

theorem risesAbove_erase {lo : Nat} {m : Memory} (a : Nat) (hm : m.risesAbove lo = true) :
    (m.erase a).risesAbove lo = true := by
  induction m generalizing lo with
  | nil => rfl
  | cons c m ih =>
    obtain ⟨b, w⟩ := c
    simp only [Memory.risesAbove, Bool.and_eq_true, decide_eq_true_eq] at hm
    simp only [Memory.erase]
    split
    · exact risesAbove_weaken (Nat.le_of_lt hm.1) (ih hm.2)
    · simp only [Memory.risesAbove, Bool.and_eq_true, decide_eq_true_eq]
      exact ⟨hm.1, ih hm.2⟩

theorem find_erase_same (m : Memory) (a : Nat) : (m.erase a).find a = none := by
  induction m with
  | nil => rfl
  | cons c m ih =>
    obtain ⟨b, w⟩ := c
    simp only [Memory.erase]
    split
    · exact ih
    · next h => simpa [Memory.find, h] using ih

/-! ### The canonical form -/

/-- The entries' own half of the canonical form. -/
theorem mem_insert {m : Memory} {a : Nat} {v : Byte} {c : Host.Cell} (h : c ∈ m.insert a v) : c = (a, v) ∨ c ∈ m := by
  induction m with
  | nil => simpa [Memory.insert] using h
  | cons d m ih =>
    obtain ⟨b, w⟩ := d
    simp only [Memory.insert] at h
    split at h
    · simpa using h
    · split at h
      · simp only [List.mem_cons] at h ⊢; tauto
      · simp only [List.mem_cons] at h ⊢
        rcases h with h | h
        · exact .inr (.inl h)
        · rcases ih h with h | h
          · exact .inl h
          · exact .inr (.inr h)

theorem mem_erase {m : Memory} {a : Nat} {c : Host.Cell} (h : c ∈ m.erase a) : c ∈ m := by
  induction m with
  | nil => simp [Memory.erase] at h
  | cons d m ih =>
    obtain ⟨b, w⟩ := d
    simp only [Memory.erase] at h
    split at h
    · exact List.mem_cons_of_mem _ (ih h)
    · simp only [List.mem_cons] at h ⊢
      rcases h with h | h
      · exact .inl h
      · exact .inr (ih h)

/-- The canonical form without its first address singled out. -/
theorem wf_iff (m : Memory) : m.wf = true ↔
    (m = [] ∨ ∃ a v rest, m = (a, v) :: rest ∧ Memory.risesAbove a rest = true) ∧
    ∀ c ∈ m, c.1 < Config.memSize ∧ Memory.fixedByte c.1 ≠ some c.2 := by
  cases m with
  | nil => simp [Memory.wf]
  | cons c rest =>
    obtain ⟨a, v⟩ := c
    simp [Memory.wf]

/-- Every write keeps the canonical form. -/
theorem write_wf {m : Memory} (hm : m.wf = true) (a : Nat) (v : Byte) : (m.write a v).wf = true := by
  unfold Memory.write
  split
  · exact hm
  · next hlt =>
    rw [wf_iff] at hm
    split
    · rw [wf_iff]
      refine ⟨?_, fun c hc => hm.2 c (mem_erase hc)⟩
      rcases hm.1 with rfl | ⟨b, w, rest, rfl, hr⟩
      · exact .inl rfl
      · simp only [Memory.erase]
        split
        · have he := risesAbove_erase a hr
          generalize Memory.erase rest a = rest' at he ⊢
          cases rest' with
          | nil => exact .inl rfl
          | cons c rest' =>
            obtain ⟨b', w'⟩ := c
            simp only [Memory.risesAbove, Bool.and_eq_true, decide_eq_true_eq] at he
            exact .inr ⟨b', w', rest', rfl, he.2⟩
        · exact .inr ⟨b, w, _, rfl, risesAbove_erase a hr⟩
    · next hfix =>
      rw [wf_iff]
      refine ⟨?_, fun c hc => ?_⟩
      · rcases hm.1 with rfl | ⟨b, w, rest, rfl, hr⟩
        · exact .inr ⟨a, v, [], rfl, rfl⟩
        · simp only [Memory.insert]
          split
          · next h => exact .inr ⟨a, v, _, rfl, by simp [Memory.risesAbove, h, hr]⟩
          · split
            · next h => subst h; exact .inr ⟨a, v, rest, rfl, hr⟩
            · exact .inr ⟨b, w, _, rfl, risesAbove_insert a v (by omega) hr⟩
      · rcases mem_insert hc with rfl | hc
        · exact ⟨by omega, hfix⟩
        · exact hm.2 c hc

/-! ### A read after a write -/

/-- A write leaves every other address alone. -/
theorem read_write_other (m : Memory) {a b : Nat} (v : Byte) (h : b ≠ a) : (m.write a v).read b = m.read b := by
  unfold Memory.write Memory.read
  split
  · rfl
  · split
    · rw [find_erase_other m h]
    · rw [find_insert_other m v h]

/-- A read after a write to the same address of memory gives the value written. -/
theorem read_write_same (m : Memory) {a : Nat} (v : Byte) (h : a < Config.memSize) :
    (m.write a v).read a = v := by
  unfold Memory.write Memory.read
  split
  · omega
  · split
    · next hfix => rw [find_erase_same m a]; simp [Memory.unlisted, hfix]
    · rw [find_insert_same]; rfl

/-- Reset's memory is in canonical form. -/
theorem nil_wf : Memory.wf [] = true := rfl

/-- In canonical form, two memories with the same listed values are the same data. -/
theorem eq_of_find_eq {m n : Memory} (hm : m.wf = true) (hn : n.wf = true) (h : ∀ a, m.find a = n.find a) : m = n := by
  have key : ∀ (m n : Memory) (lo : Nat), m.risesAbove lo = true → n.risesAbove lo = true →
      (∀ a, m.find a = n.find a) → m = n := by
    intro m
    induction m with
    | nil =>
      intro n lo _ hn h
      cases n with
      | nil => rfl
      | cons c n => obtain ⟨a, v⟩ := c; have := h a; simp [Memory.find] at this
    | cons c m ih =>
      obtain ⟨a, v⟩ := c
      intro n lo hm hn h
      cases n with
      | nil => have := h a; simp [Memory.find] at this
      | cons d n =>
        obtain ⟨b, w⟩ := d
        simp only [Memory.risesAbove, Bool.and_eq_true, decide_eq_true_eq] at hm hn
        have hab : a = b := by
          rcases Nat.lt_trichotomy a b with hlt | heq | hgt
          · have h1 := h a
            have hr : Memory.find n a = none := find_none_of_risesAbove (Nat.le_of_lt hlt) hn.2
            simp [Memory.find, Nat.ne_of_lt hlt, hr] at h1
          · exact heq
          · have h1 := h b
            have hr : Memory.find m b = none := find_none_of_risesAbove (Nat.le_of_lt hgt) hm.2
            simp [Memory.find, Nat.ne_of_lt hgt, hr] at h1
        subst hab
        have hv : v = w := by have := h a; simpa [Memory.find] using this
        subst hv
        congr 1
        refine ih n a hm.2 hn.2 fun b => ?_
        by_cases hb : b = a
        · subst hb
          rw [find_none_of_risesAbove (Nat.le_refl _) hm.2, find_none_of_risesAbove (Nat.le_refl _) hn.2]
        · have := h b
          simpa [Memory.find, hb] using this
  rcases ((wf_iff m).1 hm).1 with rfl | ⟨a, v, m', rfl, hr⟩
  · cases n with
    | nil => rfl
    | cons c n => obtain ⟨b, w⟩ := c; have := h b; simp [Memory.find] at this
  · rcases ((wf_iff n).1 hn).1 with rfl | ⟨b, w, n', rfl, hr'⟩
    · have := h a; simp [Memory.find] at this
    · have hab : a = b := by
        rcases Nat.lt_trichotomy a b with hlt | heq | hgt
        · have h1 := h a
          simp [Memory.find, Nat.ne_of_lt hlt, find_none_of_risesAbove (Nat.le_of_lt hlt) hr'] at h1
        · exact heq
        · have h1 := h b
          simp [Memory.find, Nat.ne_of_lt hgt, find_none_of_risesAbove (Nat.le_of_lt hgt) hr] at h1
      subst hab
      have hv : v = w := by have := h a; simpa [Memory.find] using this
      subst hv
      congr 1
      refine key m' n' a hr hr' fun b => ?_
      by_cases hb : b = a
      · subst hb
        rw [find_none_of_risesAbove (Nat.le_refl _) hr, find_none_of_risesAbove (Nat.le_refl _) hr']
      · have := h b
        simpa [Memory.find, hb] using this

end Sys2Proof.Machine
end

