-- ==== Sys2Proof/Laws/State.lean ====
section
/-! SUPPORT. One lemma for each field of State and each update of it, and for each accessor: a proof cites these and unfolds no
update. -/

namespace Sys2Proof.Machine

/-! ### `setReg` -/

@[simp] theorem setReg_v (s : State) (k : Nibble) (b : Byte) : (s.setReg k b).v = s.v.set k.toNat b := rfl
@[simp] theorem setReg_i (s : State) (k : Nibble) (b : Byte) : (s.setReg k b).i = s.i := rfl
@[simp] theorem setReg_pc (s : State) (k : Nibble) (b : Byte) : (s.setReg k b).pc = s.pc := rfl
@[simp] theorem setReg_stack (s : State) (k : Nibble) (b : Byte) : (s.setReg k b).stack = s.stack := rfl
@[simp] theorem setReg_sp (s : State) (k : Nibble) (b : Byte) : (s.setReg k b).sp = s.sp := rfl
@[simp] theorem setReg_dt (s : State) (k : Nibble) (b : Byte) : (s.setReg k b).dt = s.dt := rfl
@[simp] theorem setReg_st (s : State) (k : Nibble) (b : Byte) : (s.setReg k b).st = s.st := rfl
@[simp] theorem setReg_fb (s : State) (k : Nibble) (b : Byte) : (s.setReg k b).fb = s.fb := rfl
@[simp] theorem setReg_dirty (s : State) (k : Nibble) (b : Byte) : (s.setReg k b).dirty = s.dirty := rfl
@[simp] theorem setReg_execState (s : State) (k : Nibble) (b : Byte) : (s.setReg k b).execState = s.execState := rfl
@[simp] theorem setReg_fault (s : State) (k : Nibble) (b : Byte) : (s.setReg k b).fault = s.fault := rfl
@[simp] theorem setReg_mem (s : State) (k : Nibble) (b : Byte) : (s.setReg k b).mem = s.mem := rfl
@[simp] theorem setReg_stopTone (s : State) (k : Nibble) (b : Byte) : (s.setReg k b).stopTone = s.stopTone := rfl
@[simp] theorem setReg_diag (s : State) (k : Nibble) (b : Byte) : (s.setReg k b).diag = s.diag := rfl
@[simp] theorem setReg_inputs (s : State) (k : Nibble) (b : Byte) : (s.setReg k b).inputs = s.inputs := rfl
@[simp] theorem setReg_cycle (s : State) (k : Nibble) (b : Byte) : (s.setReg k b).cycle = s.cycle := rfl
@[simp] theorem setReg_loadOpen (s : State) (k : Nibble) (b : Byte) : (s.setReg k b).loadOpen = s.loadOpen := rfl
@[simp] theorem setReg_stackEntry (s : State) (k : Nibble) (b : Byte) (j : Nibble) : (s.setReg k b).stackEntry j = s.stackEntry j := rfl
@[simp] theorem setReg_pixel (s : State) (k : Nibble) (b : Byte) (x : BitVec 6) (y : BitVec 5) : (s.setReg k b).pixel x y = s.pixel x y := rfl
@[simp] theorem setReg_byte (s : State) (k : Nibble) (b : Byte) (a : Nat) : (s.setReg k b).byte a = s.byte a := rfl
@[simp] theorem setReg_input (s : State) (k : Nibble) (b : Byte) : (s.setReg k b).input = s.input := rfl

/-! ### `setI` -/

@[simp] theorem setI_v (s : State) (w : Word) : (s.setI w).v = s.v := rfl
@[simp] theorem setI_i (s : State) (w : Word) : (s.setI w).i = w := rfl
@[simp] theorem setI_pc (s : State) (w : Word) : (s.setI w).pc = s.pc := rfl
@[simp] theorem setI_stack (s : State) (w : Word) : (s.setI w).stack = s.stack := rfl
@[simp] theorem setI_sp (s : State) (w : Word) : (s.setI w).sp = s.sp := rfl
@[simp] theorem setI_dt (s : State) (w : Word) : (s.setI w).dt = s.dt := rfl
@[simp] theorem setI_st (s : State) (w : Word) : (s.setI w).st = s.st := rfl
@[simp] theorem setI_fb (s : State) (w : Word) : (s.setI w).fb = s.fb := rfl
@[simp] theorem setI_dirty (s : State) (w : Word) : (s.setI w).dirty = s.dirty := rfl
@[simp] theorem setI_execState (s : State) (w : Word) : (s.setI w).execState = s.execState := rfl
@[simp] theorem setI_fault (s : State) (w : Word) : (s.setI w).fault = s.fault := rfl
@[simp] theorem setI_mem (s : State) (w : Word) : (s.setI w).mem = s.mem := rfl
@[simp] theorem setI_stopTone (s : State) (w : Word) : (s.setI w).stopTone = s.stopTone := rfl
@[simp] theorem setI_diag (s : State) (w : Word) : (s.setI w).diag = s.diag := rfl
@[simp] theorem setI_inputs (s : State) (w : Word) : (s.setI w).inputs = s.inputs := rfl
@[simp] theorem setI_cycle (s : State) (w : Word) : (s.setI w).cycle = s.cycle := rfl
@[simp] theorem setI_loadOpen (s : State) (w : Word) : (s.setI w).loadOpen = s.loadOpen := rfl
@[simp] theorem setI_reg (s : State) (w : Word) (j : Nibble) : (s.setI w).reg j = s.reg j := rfl
@[simp] theorem setI_stackEntry (s : State) (w : Word) (j : Nibble) : (s.setI w).stackEntry j = s.stackEntry j := rfl
@[simp] theorem setI_pixel (s : State) (w : Word) (x : BitVec 6) (y : BitVec 5) : (s.setI w).pixel x y = s.pixel x y := rfl
@[simp] theorem setI_byte (s : State) (w : Word) (a : Nat) : (s.setI w).byte a = s.byte a := rfl
@[simp] theorem setI_input (s : State) (w : Word) : (s.setI w).input = s.input := rfl

/-! ### `setPc` -/

@[simp] theorem setPc_v (s : State) (w : Word) : (s.setPc w).v = s.v := rfl
@[simp] theorem setPc_i (s : State) (w : Word) : (s.setPc w).i = s.i := rfl
@[simp] theorem setPc_pc (s : State) (w : Word) : (s.setPc w).pc = w := rfl
@[simp] theorem setPc_stack (s : State) (w : Word) : (s.setPc w).stack = s.stack := rfl
@[simp] theorem setPc_sp (s : State) (w : Word) : (s.setPc w).sp = s.sp := rfl
@[simp] theorem setPc_dt (s : State) (w : Word) : (s.setPc w).dt = s.dt := rfl
@[simp] theorem setPc_st (s : State) (w : Word) : (s.setPc w).st = s.st := rfl
@[simp] theorem setPc_fb (s : State) (w : Word) : (s.setPc w).fb = s.fb := rfl
@[simp] theorem setPc_dirty (s : State) (w : Word) : (s.setPc w).dirty = s.dirty := rfl
@[simp] theorem setPc_execState (s : State) (w : Word) : (s.setPc w).execState = s.execState := rfl
@[simp] theorem setPc_fault (s : State) (w : Word) : (s.setPc w).fault = s.fault := rfl
@[simp] theorem setPc_mem (s : State) (w : Word) : (s.setPc w).mem = s.mem := rfl
@[simp] theorem setPc_stopTone (s : State) (w : Word) : (s.setPc w).stopTone = s.stopTone := rfl
@[simp] theorem setPc_diag (s : State) (w : Word) : (s.setPc w).diag = s.diag := rfl
@[simp] theorem setPc_inputs (s : State) (w : Word) : (s.setPc w).inputs = s.inputs := rfl
@[simp] theorem setPc_cycle (s : State) (w : Word) : (s.setPc w).cycle = s.cycle := rfl
@[simp] theorem setPc_loadOpen (s : State) (w : Word) : (s.setPc w).loadOpen = s.loadOpen := rfl
@[simp] theorem setPc_reg (s : State) (w : Word) (j : Nibble) : (s.setPc w).reg j = s.reg j := rfl
@[simp] theorem setPc_stackEntry (s : State) (w : Word) (j : Nibble) : (s.setPc w).stackEntry j = s.stackEntry j := rfl
@[simp] theorem setPc_pixel (s : State) (w : Word) (x : BitVec 6) (y : BitVec 5) : (s.setPc w).pixel x y = s.pixel x y := rfl
@[simp] theorem setPc_byte (s : State) (w : Word) (a : Nat) : (s.setPc w).byte a = s.byte a := rfl
@[simp] theorem setPc_input (s : State) (w : Word) : (s.setPc w).input = s.input := rfl

/-! ### `advance` -/

@[simp] theorem advance_v (s : State) : (s.advance).v = s.v := rfl
@[simp] theorem advance_i (s : State) : (s.advance).i = s.i := rfl
@[simp] theorem advance_pc (s : State) : (s.advance).pc = s.pc + 2 := rfl
@[simp] theorem advance_stack (s : State) : (s.advance).stack = s.stack := rfl
@[simp] theorem advance_sp (s : State) : (s.advance).sp = s.sp := rfl
@[simp] theorem advance_dt (s : State) : (s.advance).dt = s.dt := rfl
@[simp] theorem advance_st (s : State) : (s.advance).st = s.st := rfl
@[simp] theorem advance_fb (s : State) : (s.advance).fb = s.fb := rfl
@[simp] theorem advance_dirty (s : State) : (s.advance).dirty = s.dirty := rfl
@[simp] theorem advance_execState (s : State) : (s.advance).execState = s.execState := rfl
@[simp] theorem advance_fault (s : State) : (s.advance).fault = s.fault := rfl
@[simp] theorem advance_mem (s : State) : (s.advance).mem = s.mem := rfl
@[simp] theorem advance_stopTone (s : State) : (s.advance).stopTone = s.stopTone := rfl
@[simp] theorem advance_diag (s : State) : (s.advance).diag = s.diag := rfl
@[simp] theorem advance_inputs (s : State) : (s.advance).inputs = s.inputs := rfl
@[simp] theorem advance_cycle (s : State) : (s.advance).cycle = s.cycle := rfl
@[simp] theorem advance_loadOpen (s : State) : (s.advance).loadOpen = s.loadOpen := rfl
@[simp] theorem advance_reg (s : State) (j : Nibble) : (s.advance).reg j = s.reg j := rfl
@[simp] theorem advance_stackEntry (s : State) (j : Nibble) : (s.advance).stackEntry j = s.stackEntry j := rfl
@[simp] theorem advance_pixel (s : State) (x : BitVec 6) (y : BitVec 5) : (s.advance).pixel x y = s.pixel x y := rfl
@[simp] theorem advance_byte (s : State) (a : Nat) : (s.advance).byte a = s.byte a := rfl
@[simp] theorem advance_input (s : State) : (s.advance).input = s.input := rfl

/-! ### `skipIf` -/

@[simp] theorem skipIf_v (s : State) (c : Bool) : (s.skipIf c).v = s.v := rfl
@[simp] theorem skipIf_i (s : State) (c : Bool) : (s.skipIf c).i = s.i := rfl
@[simp] theorem skipIf_pc (s : State) (c : Bool) : (s.skipIf c).pc = if c then s.pc + 4 else s.pc + 2 := rfl
@[simp] theorem skipIf_stack (s : State) (c : Bool) : (s.skipIf c).stack = s.stack := rfl
@[simp] theorem skipIf_sp (s : State) (c : Bool) : (s.skipIf c).sp = s.sp := rfl
@[simp] theorem skipIf_dt (s : State) (c : Bool) : (s.skipIf c).dt = s.dt := rfl
@[simp] theorem skipIf_st (s : State) (c : Bool) : (s.skipIf c).st = s.st := rfl
@[simp] theorem skipIf_fb (s : State) (c : Bool) : (s.skipIf c).fb = s.fb := rfl
@[simp] theorem skipIf_dirty (s : State) (c : Bool) : (s.skipIf c).dirty = s.dirty := rfl
@[simp] theorem skipIf_execState (s : State) (c : Bool) : (s.skipIf c).execState = s.execState := rfl
@[simp] theorem skipIf_fault (s : State) (c : Bool) : (s.skipIf c).fault = s.fault := rfl
@[simp] theorem skipIf_mem (s : State) (c : Bool) : (s.skipIf c).mem = s.mem := rfl
@[simp] theorem skipIf_stopTone (s : State) (c : Bool) : (s.skipIf c).stopTone = s.stopTone := rfl
@[simp] theorem skipIf_diag (s : State) (c : Bool) : (s.skipIf c).diag = s.diag := rfl
@[simp] theorem skipIf_inputs (s : State) (c : Bool) : (s.skipIf c).inputs = s.inputs := rfl
@[simp] theorem skipIf_cycle (s : State) (c : Bool) : (s.skipIf c).cycle = s.cycle := rfl
@[simp] theorem skipIf_loadOpen (s : State) (c : Bool) : (s.skipIf c).loadOpen = s.loadOpen := rfl
@[simp] theorem skipIf_reg (s : State) (c : Bool) (j : Nibble) : (s.skipIf c).reg j = s.reg j := rfl
@[simp] theorem skipIf_stackEntry (s : State) (c : Bool) (j : Nibble) : (s.skipIf c).stackEntry j = s.stackEntry j := rfl
@[simp] theorem skipIf_pixel (s : State) (c : Bool) (x : BitVec 6) (y : BitVec 5) : (s.skipIf c).pixel x y = s.pixel x y := rfl
@[simp] theorem skipIf_byte (s : State) (c : Bool) (a : Nat) : (s.skipIf c).byte a = s.byte a := rfl
@[simp] theorem skipIf_input (s : State) (c : Bool) : (s.skipIf c).input = s.input := rfl

/-! ### `setDt` -/

@[simp] theorem setDt_v (s : State) (b : Byte) : (s.setDt b).v = s.v := rfl
@[simp] theorem setDt_i (s : State) (b : Byte) : (s.setDt b).i = s.i := rfl
@[simp] theorem setDt_pc (s : State) (b : Byte) : (s.setDt b).pc = s.pc := rfl
@[simp] theorem setDt_stack (s : State) (b : Byte) : (s.setDt b).stack = s.stack := rfl
@[simp] theorem setDt_sp (s : State) (b : Byte) : (s.setDt b).sp = s.sp := rfl
@[simp] theorem setDt_dt (s : State) (b : Byte) : (s.setDt b).dt = b := rfl
@[simp] theorem setDt_st (s : State) (b : Byte) : (s.setDt b).st = s.st := rfl
@[simp] theorem setDt_fb (s : State) (b : Byte) : (s.setDt b).fb = s.fb := rfl
@[simp] theorem setDt_dirty (s : State) (b : Byte) : (s.setDt b).dirty = s.dirty := rfl
@[simp] theorem setDt_execState (s : State) (b : Byte) : (s.setDt b).execState = s.execState := rfl
@[simp] theorem setDt_fault (s : State) (b : Byte) : (s.setDt b).fault = s.fault := rfl
@[simp] theorem setDt_mem (s : State) (b : Byte) : (s.setDt b).mem = s.mem := rfl
@[simp] theorem setDt_stopTone (s : State) (b : Byte) : (s.setDt b).stopTone = s.stopTone := rfl
@[simp] theorem setDt_diag (s : State) (b : Byte) : (s.setDt b).diag = s.diag := rfl
@[simp] theorem setDt_inputs (s : State) (b : Byte) : (s.setDt b).inputs = s.inputs := rfl
@[simp] theorem setDt_cycle (s : State) (b : Byte) : (s.setDt b).cycle = s.cycle := rfl
@[simp] theorem setDt_loadOpen (s : State) (b : Byte) : (s.setDt b).loadOpen = s.loadOpen := rfl
@[simp] theorem setDt_reg (s : State) (b : Byte) (j : Nibble) : (s.setDt b).reg j = s.reg j := rfl
@[simp] theorem setDt_stackEntry (s : State) (b : Byte) (j : Nibble) : (s.setDt b).stackEntry j = s.stackEntry j := rfl
@[simp] theorem setDt_pixel (s : State) (b : Byte) (x : BitVec 6) (y : BitVec 5) : (s.setDt b).pixel x y = s.pixel x y := rfl
@[simp] theorem setDt_byte (s : State) (b : Byte) (a : Nat) : (s.setDt b).byte a = s.byte a := rfl
@[simp] theorem setDt_input (s : State) (b : Byte) : (s.setDt b).input = s.input := rfl

/-! ### `setSt` -/

@[simp] theorem setSt_v (s : State) (b : Byte) : (s.setSt b).v = s.v := rfl
@[simp] theorem setSt_i (s : State) (b : Byte) : (s.setSt b).i = s.i := rfl
@[simp] theorem setSt_pc (s : State) (b : Byte) : (s.setSt b).pc = s.pc := rfl
@[simp] theorem setSt_stack (s : State) (b : Byte) : (s.setSt b).stack = s.stack := rfl
@[simp] theorem setSt_sp (s : State) (b : Byte) : (s.setSt b).sp = s.sp := rfl
@[simp] theorem setSt_dt (s : State) (b : Byte) : (s.setSt b).dt = s.dt := rfl
@[simp] theorem setSt_st (s : State) (b : Byte) : (s.setSt b).st = b := rfl
@[simp] theorem setSt_fb (s : State) (b : Byte) : (s.setSt b).fb = s.fb := rfl
@[simp] theorem setSt_dirty (s : State) (b : Byte) : (s.setSt b).dirty = s.dirty := rfl
@[simp] theorem setSt_execState (s : State) (b : Byte) : (s.setSt b).execState = s.execState := rfl
@[simp] theorem setSt_fault (s : State) (b : Byte) : (s.setSt b).fault = s.fault := rfl
@[simp] theorem setSt_mem (s : State) (b : Byte) : (s.setSt b).mem = s.mem := rfl
@[simp] theorem setSt_stopTone (s : State) (b : Byte) : (s.setSt b).stopTone = s.stopTone := rfl
@[simp] theorem setSt_diag (s : State) (b : Byte) : (s.setSt b).diag = s.diag := rfl
@[simp] theorem setSt_inputs (s : State) (b : Byte) : (s.setSt b).inputs = s.inputs := rfl
@[simp] theorem setSt_cycle (s : State) (b : Byte) : (s.setSt b).cycle = s.cycle := rfl
@[simp] theorem setSt_loadOpen (s : State) (b : Byte) : (s.setSt b).loadOpen = s.loadOpen := rfl
@[simp] theorem setSt_reg (s : State) (b : Byte) (j : Nibble) : (s.setSt b).reg j = s.reg j := rfl
@[simp] theorem setSt_stackEntry (s : State) (b : Byte) (j : Nibble) : (s.setSt b).stackEntry j = s.stackEntry j := rfl
@[simp] theorem setSt_pixel (s : State) (b : Byte) (x : BitVec 6) (y : BitVec 5) : (s.setSt b).pixel x y = s.pixel x y := rfl
@[simp] theorem setSt_byte (s : State) (b : Byte) (a : Nat) : (s.setSt b).byte a = s.byte a := rfl
@[simp] theorem setSt_input (s : State) (b : Byte) : (s.setSt b).input = s.input := rfl

/-! ### `setExec` -/

@[simp] theorem setExec_v (s : State) (e : Exec) : (s.setExec e).v = s.v := rfl
@[simp] theorem setExec_i (s : State) (e : Exec) : (s.setExec e).i = s.i := rfl
@[simp] theorem setExec_pc (s : State) (e : Exec) : (s.setExec e).pc = s.pc := rfl
@[simp] theorem setExec_stack (s : State) (e : Exec) : (s.setExec e).stack = s.stack := rfl
@[simp] theorem setExec_sp (s : State) (e : Exec) : (s.setExec e).sp = s.sp := rfl
@[simp] theorem setExec_dt (s : State) (e : Exec) : (s.setExec e).dt = s.dt := rfl
@[simp] theorem setExec_st (s : State) (e : Exec) : (s.setExec e).st = s.st := rfl
@[simp] theorem setExec_fb (s : State) (e : Exec) : (s.setExec e).fb = s.fb := rfl
@[simp] theorem setExec_dirty (s : State) (e : Exec) : (s.setExec e).dirty = s.dirty := rfl
@[simp] theorem setExec_execState (s : State) (e : Exec) : (s.setExec e).execState = e := rfl
@[simp] theorem setExec_fault (s : State) (e : Exec) : (s.setExec e).fault = s.fault := rfl
@[simp] theorem setExec_mem (s : State) (e : Exec) : (s.setExec e).mem = s.mem := rfl
@[simp] theorem setExec_stopTone (s : State) (e : Exec) : (s.setExec e).stopTone = s.stopTone := rfl
@[simp] theorem setExec_diag (s : State) (e : Exec) : (s.setExec e).diag = s.diag := rfl
@[simp] theorem setExec_inputs (s : State) (e : Exec) : (s.setExec e).inputs = s.inputs := rfl
@[simp] theorem setExec_cycle (s : State) (e : Exec) : (s.setExec e).cycle = s.cycle := rfl
@[simp] theorem setExec_loadOpen (s : State) (e : Exec) : (s.setExec e).loadOpen = s.loadOpen := rfl
@[simp] theorem setExec_reg (s : State) (e : Exec) (j : Nibble) : (s.setExec e).reg j = s.reg j := rfl
@[simp] theorem setExec_stackEntry (s : State) (e : Exec) (j : Nibble) : (s.setExec e).stackEntry j = s.stackEntry j := rfl
@[simp] theorem setExec_pixel (s : State) (e : Exec) (x : BitVec 6) (y : BitVec 5) : (s.setExec e).pixel x y = s.pixel x y := rfl
@[simp] theorem setExec_byte (s : State) (e : Exec) (a : Nat) : (s.setExec e).byte a = s.byte a := rfl
@[simp] theorem setExec_input (s : State) (e : Exec) : (s.setExec e).input = s.input := rfl

/-! ### `setMem` -/

@[simp] theorem setMem_v (s : State) (m : Memory) : (s.setMem m).v = s.v := rfl
@[simp] theorem setMem_i (s : State) (m : Memory) : (s.setMem m).i = s.i := rfl
@[simp] theorem setMem_pc (s : State) (m : Memory) : (s.setMem m).pc = s.pc := rfl
@[simp] theorem setMem_stack (s : State) (m : Memory) : (s.setMem m).stack = s.stack := rfl
@[simp] theorem setMem_sp (s : State) (m : Memory) : (s.setMem m).sp = s.sp := rfl
@[simp] theorem setMem_dt (s : State) (m : Memory) : (s.setMem m).dt = s.dt := rfl
@[simp] theorem setMem_st (s : State) (m : Memory) : (s.setMem m).st = s.st := rfl
@[simp] theorem setMem_fb (s : State) (m : Memory) : (s.setMem m).fb = s.fb := rfl
@[simp] theorem setMem_dirty (s : State) (m : Memory) : (s.setMem m).dirty = s.dirty := rfl
@[simp] theorem setMem_execState (s : State) (m : Memory) : (s.setMem m).execState = s.execState := rfl
@[simp] theorem setMem_fault (s : State) (m : Memory) : (s.setMem m).fault = s.fault := rfl
@[simp] theorem setMem_mem (s : State) (m : Memory) : (s.setMem m).mem = m := rfl
@[simp] theorem setMem_stopTone (s : State) (m : Memory) : (s.setMem m).stopTone = s.stopTone := rfl
@[simp] theorem setMem_diag (s : State) (m : Memory) : (s.setMem m).diag = s.diag := rfl
@[simp] theorem setMem_inputs (s : State) (m : Memory) : (s.setMem m).inputs = s.inputs := rfl
@[simp] theorem setMem_cycle (s : State) (m : Memory) : (s.setMem m).cycle = s.cycle := rfl
@[simp] theorem setMem_loadOpen (s : State) (m : Memory) : (s.setMem m).loadOpen = s.loadOpen := rfl
@[simp] theorem setMem_reg (s : State) (m : Memory) (j : Nibble) : (s.setMem m).reg j = s.reg j := rfl
@[simp] theorem setMem_stackEntry (s : State) (m : Memory) (j : Nibble) : (s.setMem m).stackEntry j = s.stackEntry j := rfl
@[simp] theorem setMem_pixel (s : State) (m : Memory) (x : BitVec 6) (y : BitVec 5) : (s.setMem m).pixel x y = s.pixel x y := rfl
@[simp] theorem setMem_byte (s : State) (m : Memory) (a : Nat) : (s.setMem m).byte a = m.read a := rfl
@[simp] theorem setMem_input (s : State) (m : Memory) : (s.setMem m).input = s.input := rfl

/-! ### `setDisplay` -/

@[simp] theorem setDisplay_v (s : State) (f : Framebuffer) : (s.setDisplay f).v = s.v := rfl
@[simp] theorem setDisplay_i (s : State) (f : Framebuffer) : (s.setDisplay f).i = s.i := rfl
@[simp] theorem setDisplay_pc (s : State) (f : Framebuffer) : (s.setDisplay f).pc = s.pc := rfl
@[simp] theorem setDisplay_stack (s : State) (f : Framebuffer) : (s.setDisplay f).stack = s.stack := rfl
@[simp] theorem setDisplay_sp (s : State) (f : Framebuffer) : (s.setDisplay f).sp = s.sp := rfl
@[simp] theorem setDisplay_dt (s : State) (f : Framebuffer) : (s.setDisplay f).dt = s.dt := rfl
@[simp] theorem setDisplay_st (s : State) (f : Framebuffer) : (s.setDisplay f).st = s.st := rfl
@[simp] theorem setDisplay_fb (s : State) (f : Framebuffer) : (s.setDisplay f).fb = f := rfl
@[simp] theorem setDisplay_dirty (s : State) (f : Framebuffer) : (s.setDisplay f).dirty = true := rfl
@[simp] theorem setDisplay_execState (s : State) (f : Framebuffer) : (s.setDisplay f).execState = s.execState := rfl
@[simp] theorem setDisplay_fault (s : State) (f : Framebuffer) : (s.setDisplay f).fault = s.fault := rfl
@[simp] theorem setDisplay_mem (s : State) (f : Framebuffer) : (s.setDisplay f).mem = s.mem := rfl
@[simp] theorem setDisplay_stopTone (s : State) (f : Framebuffer) : (s.setDisplay f).stopTone = s.stopTone := rfl
@[simp] theorem setDisplay_diag (s : State) (f : Framebuffer) : (s.setDisplay f).diag = s.diag := rfl
@[simp] theorem setDisplay_inputs (s : State) (f : Framebuffer) : (s.setDisplay f).inputs = s.inputs := rfl
@[simp] theorem setDisplay_cycle (s : State) (f : Framebuffer) : (s.setDisplay f).cycle = s.cycle := rfl
@[simp] theorem setDisplay_loadOpen (s : State) (f : Framebuffer) : (s.setDisplay f).loadOpen = s.loadOpen := rfl
@[simp] theorem setDisplay_reg (s : State) (f : Framebuffer) (j : Nibble) : (s.setDisplay f).reg j = s.reg j := rfl
@[simp] theorem setDisplay_stackEntry (s : State) (f : Framebuffer) (j : Nibble) : (s.setDisplay f).stackEntry j = s.stackEntry j := rfl
@[simp] theorem setDisplay_byte (s : State) (f : Framebuffer) (a : Nat) : (s.setDisplay f).byte a = s.byte a := rfl
@[simp] theorem setDisplay_input (s : State) (f : Framebuffer) : (s.setDisplay f).input = s.input := rfl

/-! ### `raise` -/

@[simp] theorem raise_v (s : State) (c : FaultCode) (n : BitVec 17) (op : Word) : (s.raise c n op).v = s.v := rfl
@[simp] theorem raise_i (s : State) (c : FaultCode) (n : BitVec 17) (op : Word) : (s.raise c n op).i = s.i := rfl
@[simp] theorem raise_pc (s : State) (c : FaultCode) (n : BitVec 17) (op : Word) : (s.raise c n op).pc = s.pc := rfl
@[simp] theorem raise_stack (s : State) (c : FaultCode) (n : BitVec 17) (op : Word) : (s.raise c n op).stack = s.stack := rfl
@[simp] theorem raise_sp (s : State) (c : FaultCode) (n : BitVec 17) (op : Word) : (s.raise c n op).sp = s.sp := rfl
@[simp] theorem raise_dt (s : State) (c : FaultCode) (n : BitVec 17) (op : Word) : (s.raise c n op).dt = s.dt := rfl
@[simp] theorem raise_st (s : State) (c : FaultCode) (n : BitVec 17) (op : Word) : (s.raise c n op).st = s.st := rfl
@[simp] theorem raise_fb (s : State) (c : FaultCode) (n : BitVec 17) (op : Word) : (s.raise c n op).fb = s.fb := rfl
@[simp] theorem raise_dirty (s : State) (c : FaultCode) (n : BitVec 17) (op : Word) : (s.raise c n op).dirty = s.dirty := rfl
@[simp] theorem raise_execState (s : State) (c : FaultCode) (n : BitVec 17) (op : Word) : (s.raise c n op).execState = .halt := rfl
@[simp] theorem raise_fault (s : State) (c : FaultCode) (n : BitVec 17) (op : Word) : (s.raise c n op).fault = { code := c, pc := s.pc, opcode := op, info := n } := rfl
@[simp] theorem raise_mem (s : State) (c : FaultCode) (n : BitVec 17) (op : Word) : (s.raise c n op).mem = s.mem := rfl
@[simp] theorem raise_stopTone (s : State) (c : FaultCode) (n : BitVec 17) (op : Word) : (s.raise c n op).stopTone = s.stopTone := rfl
@[simp] theorem raise_diag (s : State) (c : FaultCode) (n : BitVec 17) (op : Word) : (s.raise c n op).diag = s.diag := rfl
@[simp] theorem raise_inputs (s : State) (c : FaultCode) (n : BitVec 17) (op : Word) : (s.raise c n op).inputs = s.inputs := rfl
@[simp] theorem raise_cycle (s : State) (c : FaultCode) (n : BitVec 17) (op : Word) : (s.raise c n op).cycle = s.cycle := rfl
@[simp] theorem raise_loadOpen (s : State) (c : FaultCode) (n : BitVec 17) (op : Word) : (s.raise c n op).loadOpen = s.loadOpen := rfl
@[simp] theorem raise_reg (s : State) (c : FaultCode) (n : BitVec 17) (op : Word) (j : Nibble) : (s.raise c n op).reg j = s.reg j := rfl
@[simp] theorem raise_stackEntry (s : State) (c : FaultCode) (n : BitVec 17) (op : Word) (j : Nibble) : (s.raise c n op).stackEntry j = s.stackEntry j := rfl
@[simp] theorem raise_pixel (s : State) (c : FaultCode) (n : BitVec 17) (op : Word) (x : BitVec 6) (y : BitVec 5) : (s.raise c n op).pixel x y = s.pixel x y := rfl
@[simp] theorem raise_byte (s : State) (c : FaultCode) (n : BitVec 17) (op : Word) (a : Nat) : (s.raise c n op).byte a = s.byte a := rfl
@[simp] theorem raise_input (s : State) (c : FaultCode) (n : BitVec 17) (op : Word) : (s.raise c n op).input = s.input := rfl

/-! ### `setResultFlag` -/

@[simp] theorem setResultFlag_i (s : State) (x : Nibble) (b : Byte) (f : Bool) : (s.setResultFlag x b f).i = s.i := rfl
@[simp] theorem setResultFlag_pc (s : State) (x : Nibble) (b : Byte) (f : Bool) : (s.setResultFlag x b f).pc = s.pc := rfl
@[simp] theorem setResultFlag_stack (s : State) (x : Nibble) (b : Byte) (f : Bool) : (s.setResultFlag x b f).stack = s.stack := rfl
@[simp] theorem setResultFlag_sp (s : State) (x : Nibble) (b : Byte) (f : Bool) : (s.setResultFlag x b f).sp = s.sp := rfl
@[simp] theorem setResultFlag_dt (s : State) (x : Nibble) (b : Byte) (f : Bool) : (s.setResultFlag x b f).dt = s.dt := rfl
@[simp] theorem setResultFlag_st (s : State) (x : Nibble) (b : Byte) (f : Bool) : (s.setResultFlag x b f).st = s.st := rfl
@[simp] theorem setResultFlag_fb (s : State) (x : Nibble) (b : Byte) (f : Bool) : (s.setResultFlag x b f).fb = s.fb := rfl
@[simp] theorem setResultFlag_dirty (s : State) (x : Nibble) (b : Byte) (f : Bool) : (s.setResultFlag x b f).dirty = s.dirty := rfl
@[simp] theorem setResultFlag_execState (s : State) (x : Nibble) (b : Byte) (f : Bool) : (s.setResultFlag x b f).execState = s.execState := rfl
@[simp] theorem setResultFlag_fault (s : State) (x : Nibble) (b : Byte) (f : Bool) : (s.setResultFlag x b f).fault = s.fault := rfl
@[simp] theorem setResultFlag_mem (s : State) (x : Nibble) (b : Byte) (f : Bool) : (s.setResultFlag x b f).mem = s.mem := rfl
@[simp] theorem setResultFlag_stopTone (s : State) (x : Nibble) (b : Byte) (f : Bool) : (s.setResultFlag x b f).stopTone = s.stopTone := rfl
@[simp] theorem setResultFlag_diag (s : State) (x : Nibble) (b : Byte) (f : Bool) : (s.setResultFlag x b f).diag = s.diag := rfl
@[simp] theorem setResultFlag_inputs (s : State) (x : Nibble) (b : Byte) (f : Bool) : (s.setResultFlag x b f).inputs = s.inputs := rfl
@[simp] theorem setResultFlag_cycle (s : State) (x : Nibble) (b : Byte) (f : Bool) : (s.setResultFlag x b f).cycle = s.cycle := rfl
@[simp] theorem setResultFlag_loadOpen (s : State) (x : Nibble) (b : Byte) (f : Bool) : (s.setResultFlag x b f).loadOpen = s.loadOpen := rfl
@[simp] theorem setResultFlag_stackEntry (s : State) (x : Nibble) (b : Byte) (f : Bool) (j : Nibble) : (s.setResultFlag x b f).stackEntry j = s.stackEntry j := rfl
@[simp] theorem setResultFlag_pixel (s : State) (x : Nibble) (b : Byte) (f : Bool) (c : BitVec 6) (r : BitVec 5) : (s.setResultFlag x b f).pixel c r = s.pixel c r := rfl
@[simp] theorem setResultFlag_byte (s : State) (x : Nibble) (b : Byte) (f : Bool) (a : Nat) : (s.setResultFlag x b f).byte a = s.byte a := rfl
@[simp] theorem setResultFlag_input (s : State) (x : Nibble) (b : Byte) (f : Bool) : (s.setResultFlag x b f).input = s.input := rfl

/-! ### Reading a register after a write -/

@[simp] theorem setReg_reg_same (s : State) (k : Nibble) (b : Byte) : (s.setReg k b).reg k = b := by
  simp [State.reg, State.setReg]

theorem setReg_reg (s : State) (k j : Nibble) (b : Byte) :
    (s.setReg k b).reg j = if j = k then b else s.reg j := by
  by_cases h : j = k
  · simp [h]
  · have hne : k.toNat ≠ j.toNat := fun e => h (BitVec.eq_of_toNat_eq e).symm
    simp [State.reg, State.setReg, h, Vector.getElem_set_ne _ _ hne]

@[simp] theorem setReg_reg_ne (s : State) (k j : Nibble) (b : Byte) (h : j ≠ k) :
    (s.setReg k b).reg j = s.reg j := by
  simp [setReg_reg, h]

/-- The flag wins when the destination is VF (R100). -/
theorem setResultFlag_reg (s : State) (x j : Nibble) (b : Byte) (f : Bool) :
    (s.setResultFlag x b f).reg j = if j = vf then flagByte f else if j = x then b else s.reg j := by
  simp [State.setResultFlag, setReg_reg]

theorem setDisplay_pixel (s : State) (f : Framebuffer) (x : BitVec 6) (y : BitVec 5) :
    (s.setDisplay f).pixel x y = Framebuffer.pixel f x y := rfl

end Sys2Proof.Machine
end

