-- ==== Sys2Proof/Laws/Ops.lean ====
section
/-! SUPPORT. One lemma for each shared operation that says what it can do; a proof cites it and does not unfold the operation. -/

namespace Sys2Proof.Machine

/-! ### Memory ranges -/

theorem writeRange_zero (m : Memory) (base : Nat) (f : Nat → Byte) : m.writeRange base 0 f = m := rfl

theorem writeRange_succ (m : Memory) (base n : Nat) (f : Nat → Byte) :
    m.writeRange base (n + 1) f = (m.writeRange base n f).write (base + n) (f n) := by
  simp [Memory.writeRange, List.range_succ]

theorem writeRange_wf {m : Memory} (hm : m.wf = true) (base n : Nat) (f : Nat → Byte) :
    (m.writeRange base n f).wf = true := by
  induction n with
  | zero => exact hm
  | succ n ih => rw [writeRange_succ]; exact write_wf ih _ _

/-- A range write changes no address outside its range. -/
theorem read_writeRange_other (m : Memory) (base n : Nat) (f : Nat → Byte) {a : Nat}
    (h : ∀ k, k < n → a ≠ base + k) : (m.writeRange base n f).read a = m.read a := by
  induction n with
  | zero => rfl
  | succ n ih =>
    rw [writeRange_succ, read_write_other _ _ (h n (Nat.lt_succ_self n))]
    exact ih fun k hk => h k (Nat.lt_succ_of_lt hk)

/-- A range write whose addresses lie in memory stores `f k` at `base + k`. -/
theorem read_writeRange_same (m : Memory) (base n : Nat) (f : Nat → Byte) {k : Nat} (hk : k < n)
    (h : base + n ≤ Config.memSize) : (m.writeRange base n f).read (base + k) = f k := by
  induction n with
  | zero => omega
  | succ n ih =>
    rw [writeRange_succ]
    by_cases hkn : k = n
    · subst hkn; exact read_write_same _ _ (by omega)
    · rw [read_write_other _ _ (by omega)]
      exact ih (by omega) (by omega)

theorem ofFont_wf (font : FontTable) : (Memory.ofFont font).wf = true := by
  have key : ∀ n, n ≤ fontBytes → Memory.wf ((List.range n).foldl
      (fun m b => if h : b < 80 then Memory.write m (fontBase + b) (font[b]'h) else m) ([] : Memory)) = true := by
    intro n
    induction n with
    | zero => intro _; rfl
    | succ n ih =>
      intro h
      rw [List.range_succ, List.foldl_append]
      simp only [List.foldl_cons, List.foldl_nil]
      split
      · exact write_wf (ih (by omega)) _ _
      · exact ih (by omega)
  exact key fontBytes (Nat.le_refl _)

/-! ### The address check -/

theorem firstOutOfRange_none {base n : Nat} :
    firstOutOfRange base n = none ↔ n = 0 ∨ base + n ≤ Config.memSize := by
  simp only [firstOutOfRange, List.find?_eq_none, List.mem_map, List.mem_range, decide_eq_true_eq,
    forall_exists_index, and_imp]
  constructor
  · intro h
    by_cases hn : n = 0
    · exact .inl hn
    · have := h _ (n - 1) (by omega) rfl
      omega
  · rintro (h | h) a k hk rfl <;> omega

/-- The address found is the lowest of the range that is outside memory. -/
theorem firstOutOfRange_some {base n a : Nat} (h : firstOutOfRange base n = some a) :
    ∃ k, k < n ∧ a = base + k ∧ Config.memSize ≤ a ∧ ∀ j, j < k → base + j < Config.memSize := by
  have hge : Config.memSize ≤ a := by simpa using List.find?_some h
  obtain ⟨k, hk, rfl⟩ : ∃ k, k < n ∧ base + k = a := by
    simpa [firstOutOfRange] using List.mem_of_find?_eq_some h
  refine ⟨k, hk, rfl, hge, fun j hj => ?_⟩
  by_contra hcon
  obtain ⟨-, as, bs, heq, hall⟩ := List.find?_eq_some_iff_append.1 h
  have hget : ((List.range n).map (base + ·))[as.length]? = some (base + k) := by rw [heq]; simp
  have hlen : as.length < n := by
    have := congrArg List.length heq
    simp at this
    omega
  rw [List.getElem?_map, List.getElem?_range hlen] at hget
  have hk' : as.length = k := by simpa using hget
  have hjas : base + j ∈ as := by
    have h1 : ((List.range n).map (base + ·))[j]? = some (base + j) := by
      rw [List.getElem?_map, List.getElem?_range (by omega)]; rfl
    rw [heq, List.getElem?_append_left (by omega)] at h1
    exact List.mem_of_getElem? h1
  have := hall _ hjas
  simp at this
  omega

/-- A checked access either has its effect, with every address in memory, or halts with the lowest offending address. -/
theorem withCheckedAddrs_cases (s e : State) (n : Nat) (op : Word) :
    (s.inMemory n ∧ s.withCheckedAddrs n op e = e) ∨
    (¬ s.inMemory n ∧ ∃ k, k < n ∧ Config.memSize ≤ s.i.toNat + k ∧ (∀ j, j < k → s.i.toNat + j < Config.memSize) ∧
      s.withCheckedAddrs n op e = s.raise .memoryOutOfBounds (BitVec.ofNat 17 (s.i.toNat + k)) op) := by
  unfold State.withCheckedAddrs
  cases h : firstOutOfRange s.i.toNat n with
  | none => exact .inl ⟨firstOutOfRange_none.1 h, rfl⟩
  | some a =>
    obtain ⟨k, hk, rfl, hge, hlow⟩ := firstOutOfRange_some h
    refine .inr ⟨fun hin => ?_, k, hk, hge, hlow, rfl⟩
    rcases hin with rfl | hin <;> omega

/-! ### The stack and the key index -/

theorem push_cases (s : State) (w : Word) :
    (s.sp.val < 16 ∧ ∃ t, s.push w = some t ∧ t.sp.val = s.sp.val + 1 ∧
      (∀ k : Nibble, t.stackEntry k = if k.toNat = s.sp.val then w else s.stackEntry k) ∧
      t = { s with stack := t.stack, sp := t.sp }) ∨
    (s.sp.val = 16 ∧ s.push w = none) := by
  by_cases h : s.sp.val < 16
  · refine .inl ⟨h, _, by simp only [State.push, h, dite_true]; rfl, rfl, fun k => ?_, rfl⟩
    simp only [State.stackEntry, Vector.getElem_set]
    simp only [eq_comm]
  · exact .inr ⟨by omega, by simp [State.push, h]⟩

theorem pop_cases (s : State) :
    (0 < s.sp.val ∧ ∃ t, s.pop = some (s.stackEntry (BitVec.ofNat 4 (s.sp.val - 1)), t) ∧ t.sp.val = s.sp.val - 1 ∧
      t = { s with sp := t.sp }) ∨
    (s.sp.val = 0 ∧ s.pop = none) := by
  by_cases h : 0 < s.sp.val
  · refine .inl ⟨h, { s with sp := ⟨s.sp.val - 1, by omega⟩ }, ?_, rfl, rfl⟩
    have hmod : (s.sp.val - 1) % 16 = s.sp.val - 1 := Nat.mod_eq_of_lt (by omega)
    simp [State.pop, h, State.stackEntry, hmod]
  · exact .inr ⟨by omega, by simp [State.pop, h]⟩

theorem keyIndex_cases (b : Byte) :
    (b.toNat ≤ 15 ∧ keyIndex b = some (b.setWidth 4) ∧ (b.setWidth 4).toNat = b.toNat) ∨
    (15 < b.toNat ∧ keyIndex b = none) := by
  by_cases h : b.toNat ≤ 15
  · exact .inl ⟨h, by simp [keyIndex, h], by simp only [BitVec.toNat_setWidth]; omega⟩
  · exact .inr ⟨by omega, by simp [keyIndex, h]⟩

/-! ### The framebuffer -/

theorem blank_pixel (c : BitVec 6) (r : BitVec 5) : Framebuffer.pixel Framebuffer.blank c r = false := by
  simp [Framebuffer.pixel, Framebuffer.blank]

/-- Toggling a cell flips it and no other. -/
theorem toggle_pixel (fb : Framebuffer) (c c' : BitVec 6) (r r' : BitVec 5) :
    Framebuffer.pixel (Framebuffer.toggle fb c r) c' r' =
      (Framebuffer.pixel fb c' r' ^^ decide (c' = c ∧ r' = r)) := by
  have hc := c'.isLt
  unfold Framebuffer.pixel Framebuffer.toggle
  by_cases hr : r = r'
  · subst hr
    simp only [Vector.getElem_set_self, BitVec.getLsbD_xor, BitVec.getLsbD_shiftLeft, BitVec.getLsbD_one]
    congr 1
    rw [Bool.eq_iff_iff]
    simp only [Bool.and_eq_true, Bool.not_eq_true', decide_eq_true_eq, decide_eq_false_iff_not, and_true]
    constructor
    · rintro ⟨⟨-, h1⟩, -, h2⟩
      exact BitVec.eq_of_toNat_eq (by omega)
    · rintro rfl
      omega
  · have hne : r.toNat ≠ r'.toNat := fun e => hr (BitVec.eq_of_toNat_eq e)
    have hr' : ¬ r' = r := fun e => hr e.symm
    rw [Vector.getElem_set_ne _ _ hne]
    simp [hr']

/-! ### Loading registers -/

theorem loadRange_succ (s : State) (n : Nat) :
    s.loadRange (n + 1) = (s.loadRange n).setReg (regNumber n) (s.byte (s.effAddr n)) := by
  simp [State.loadRange, List.range_succ]

/-- Loading `n` registers, at most 16, gives V[k] the byte at I + k for k below n, and changes only registers. -/
theorem loadRange_reg (s : State) {n : Nat} (hn : n ≤ 16) (k : Nibble) :
    (s.loadRange n).reg k = if k.toNat < n then s.byte (s.i.toNat + k.toNat) else s.reg k := by
  induction n with
  | zero => simp [State.loadRange]
  | succ n ih =>
    rw [loadRange_succ, setReg_reg]
    have hreg : (regNumber n).toNat = n := by
      simp only [regNumber, BitVec.toNat_ofNat]; omega
    by_cases hk : k = regNumber n
    · subst hk; simp [hreg, State.effAddr]
    · have hne : k.toNat ≠ n := fun e => hk (BitVec.eq_of_toNat_eq (by rw [hreg]; exact e))
      rw [if_neg hk, ih (by omega)]
      by_cases hlt : k.toNat < n
      · simp [hlt, Nat.lt_succ_of_lt hlt]
      · have : ¬ k.toNat < n + 1 := by omega
        simp [hlt, this]

theorem loadRange_rest (s : State) (n : Nat) : s.loadRange n = { s with v := (s.loadRange n).v } := by
  induction n with
  | zero => rfl
  | succ n ih => rw [loadRange_succ, ih]; rfl

/-! ### The cycle -/

theorem timerDown_toNat (b : Byte) : (timerDown b).toNat = b.toNat - 1 := by
  unfold timerDown
  split
  · next h => subst h; rfl
  · next h => bv_omega

/-- What one cycle can do, by EXEC, the fetch and the decoder. -/
theorem step_cases {s t : State} (h : step s = .next t) :
    (s.execState = .halt ∧ t = completeCycle none s) ∨
    (∃ x, s.execState = .waitKey x ∧ t = completeCycle none (keyWaitStep x s)) ∨
    (s.execState = .run ∧ fetchWord s = none ∧ t = completeCycle none (fetchFault s)) ∨
    (∃ op e, s.execState = .run ∧ fetchWord s = some op ∧ decodeWord op = .error e ∧
      t = completeCycle (some (diagReport s op)) (skipUnrecognized s)) ∨
    (∃ op i u, s.execState = .run ∧ fetchWord s = some op ∧ decodeWord op = .ok i ∧ exec i s = .next u ∧
      t = completeCycle none u) := by
  unfold step at h
  split at h
  · next hx => exact .inl ⟨hx, by injection h with h; exact h.symm⟩
  · next x hx => exact .inr (.inl ⟨x, hx, by injection h with h; exact h.symm⟩)
  · next hx =>
    split at h
    · next hf => exact .inr (.inr (.inl ⟨hx, hf, by injection h with h; exact h.symm⟩))
    · next op hf =>
      split at h
      · next e hd => exact .inr (.inr (.inr (.inl ⟨op, e, hx, hf, hd, by injection h with h; exact h.symm⟩)))
      · next i hd =>
        split at h
        · next u hu => exact .inr (.inr (.inr (.inr ⟨op, i, u, hx, hf, hd, hu, by injection h with h; exact h.symm⟩)))
        · cases h
        · cases h

theorem fetchWord_some {s : State} (h : s.pc.toNat + 1 < Config.memSize) :
    fetchWord s = some (s.byte s.pc.toNat ++ s.byte (s.pc.toNat + 1)) := by
  simp [fetchWord, h, wordOfBytes]

theorem fetchWord_none {s : State} (h : Config.memSize ≤ s.pc.toNat + 1) : fetchWord s = none := by
  have : ¬ s.pc.toNat + 1 < Config.memSize := by omega
  simp [fetchWord, this]

/-- One more cycle of a run, seen from its start. -/
theorem run_succ_next {s t : State} (h : step s = .next t) (n : Nat) :
    Sys2Proof.core.run (n + 1) s = Sys2Proof.core.run n t := by
  have hc : Sys2Proof.core.step s = .next t := h
  simp only [Host.Core.run, hc]

/-- The end of a cycle leaves EXEC as it is. -/
@[simp] theorem completeCycle_execState (d : Option Diag) (s : State) : (completeCycle d s).execState = s.execState := by
  unfold completeCycle; split <;> rfl

/-- The default font leaves memory with nothing listed: Reset from anywhere with it is the reset state, but for the host's side. -/
theorem ofFont_default : Memory.ofFont defaultFont = [] := by decide +kernel

theorem resetWith_default : State.reset.resetWith defaultFont = State.reset := by
  simp [State.resetWith, ofFont_default, State.reset]

end Sys2Proof.Machine
end

