-- ==== Sys2Proof/Laws/PerInstr.lean ====
section
/-! SUPPORT. Statements about every instruction, one lemma for each constructor: the family nibble of an instruction's word is the
one 30_encoding.md rule R66 gives it. -/

namespace Sys2Proof.Laws.FamilyNibble

/-- The family of each instruction (R66). -/
def family : Instr → Nibble
  | .cls => 0x0
  | .ret => 0x0
  | .sys _ => 0x0
  | .jp _ => 0x1
  | .call _ => 0x2
  | .seImm _ _ => 0x3
  | .sneImm _ _ => 0x4
  | .seReg _ _ => 0x5
  | .ldImm _ _ => 0x6
  | .addImm _ _ => 0x7
  | .ldReg _ _ => 0x8
  | .orReg _ _ => 0x8
  | .andReg _ _ => 0x8
  | .xorReg _ _ => 0x8
  | .addReg _ _ => 0x8
  | .subReg _ _ => 0x8
  | .shr _ _ => 0x8
  | .subnReg _ _ => 0x8
  | .shl _ _ => 0x8
  | .sneReg _ _ => 0x9
  | .ldI _ => 0xA
  | .jpV0 _ => 0xB
  | .rnd _ _ => 0xC
  | .drw _ _ _ => 0xD
  | .skp _ => 0xE
  | .sknp _ => 0xE
  | .ldVxDt _ => 0xF
  | .ldVxK _ => 0xF
  | .ldDtVx _ => 0xF
  | .ldStVx _ => 0xF
  | .addI _ => 0xF
  | .ldF _ => 0xF
  | .ldB _ => 0xF
  | .storeRegs _ => 0xF
  | .loadRegs _ => 0xF

/-- The word of the instruction has its family in bits 15 to 12. -/
def Statement (i : Instr) : Prop := opFamily (encode i) = family i

theorem cls : Statement .cls := rfl
theorem ret : Statement .ret := rfl
theorem sys (nnn : Addr) : Statement (.sys nnn) := opFamily_nnn _ _
theorem jp (nnn : Addr) : Statement (.jp nnn) := opFamily_nnn _ _
theorem call (nnn : Addr) : Statement (.call nnn) := opFamily_nnn _ _
theorem seImm (x : Nibble) (nn : Byte) : Statement (.seImm x nn) := opFamily_xnn _ _ _
theorem sneImm (x : Nibble) (nn : Byte) : Statement (.sneImm x nn) := opFamily_xnn _ _ _
theorem seReg (x : Nibble) (y : Nibble) : Statement (.seReg x y) := opFamily_xyn _ _ _ _
theorem ldImm (x : Nibble) (nn : Byte) : Statement (.ldImm x nn) := opFamily_xnn _ _ _
theorem addImm (x : Nibble) (nn : Byte) : Statement (.addImm x nn) := opFamily_xnn _ _ _
theorem ldReg (x : Nibble) (y : Nibble) : Statement (.ldReg x y) := opFamily_xyn _ _ _ _
theorem orReg (x : Nibble) (y : Nibble) : Statement (.orReg x y) := opFamily_xyn _ _ _ _
theorem andReg (x : Nibble) (y : Nibble) : Statement (.andReg x y) := opFamily_xyn _ _ _ _
theorem xorReg (x : Nibble) (y : Nibble) : Statement (.xorReg x y) := opFamily_xyn _ _ _ _
theorem addReg (x : Nibble) (y : Nibble) : Statement (.addReg x y) := opFamily_xyn _ _ _ _
theorem subReg (x : Nibble) (y : Nibble) : Statement (.subReg x y) := opFamily_xyn _ _ _ _
theorem shr (x : Nibble) (y : Nibble) : Statement (.shr x y) := opFamily_xyn _ _ _ _
theorem subnReg (x : Nibble) (y : Nibble) : Statement (.subnReg x y) := opFamily_xyn _ _ _ _
theorem shl (x : Nibble) (y : Nibble) : Statement (.shl x y) := opFamily_xyn _ _ _ _
theorem sneReg (x : Nibble) (y : Nibble) : Statement (.sneReg x y) := opFamily_xyn _ _ _ _
theorem ldI (nnn : Addr) : Statement (.ldI nnn) := opFamily_nnn _ _
theorem jpV0 (nnn : Addr) : Statement (.jpV0 nnn) := opFamily_nnn _ _
theorem rnd (x : Nibble) (nn : Byte) : Statement (.rnd x nn) := opFamily_xnn _ _ _
theorem drw (x : Nibble) (y : Nibble) (n : Nibble) : Statement (.drw x y n) := opFamily_xyn _ _ _ _
theorem skp (x : Nibble) : Statement (.skp x) := opFamily_xnn _ _ _
theorem sknp (x : Nibble) : Statement (.sknp x) := opFamily_xnn _ _ _
theorem ldVxDt (x : Nibble) : Statement (.ldVxDt x) := opFamily_xnn _ _ _
theorem ldVxK (x : Nibble) : Statement (.ldVxK x) := opFamily_xnn _ _ _
theorem ldDtVx (x : Nibble) : Statement (.ldDtVx x) := opFamily_xnn _ _ _
theorem ldStVx (x : Nibble) : Statement (.ldStVx x) := opFamily_xnn _ _ _
theorem addI (x : Nibble) : Statement (.addI x) := opFamily_xnn _ _ _
theorem ldF (x : Nibble) : Statement (.ldF x) := opFamily_xnn _ _ _
theorem ldB (x : Nibble) : Statement (.ldB x) := opFamily_xnn _ _ _
theorem storeRegs (x : Nibble) : Statement (.storeRegs x) := opFamily_xnn _ _ _
theorem loadRegs (x : Nibble) : Statement (.loadRegs x) := opFamily_xnn _ _ _

/-- Every instruction's word has its family in bits 15 to 12. -/
theorem all (i : Instr) : Statement i := by
  cases i with
  | cls => exact cls
  | ret => exact ret
  | sys nnn => exact sys nnn
  | jp nnn => exact jp nnn
  | call nnn => exact call nnn
  | seImm x nn => exact seImm x nn
  | sneImm x nn => exact sneImm x nn
  | seReg x y => exact seReg x y
  | ldImm x nn => exact ldImm x nn
  | addImm x nn => exact addImm x nn
  | ldReg x y => exact ldReg x y
  | orReg x y => exact orReg x y
  | andReg x y => exact andReg x y
  | xorReg x y => exact xorReg x y
  | addReg x y => exact addReg x y
  | subReg x y => exact subReg x y
  | shr x y => exact shr x y
  | subnReg x y => exact subnReg x y
  | shl x y => exact shl x y
  | sneReg x y => exact sneReg x y
  | ldI nnn => exact ldI nnn
  | jpV0 nnn => exact jpV0 nnn
  | rnd x nn => exact rnd x nn
  | drw x y n => exact drw x y n
  | skp x => exact skp x
  | sknp x => exact sknp x
  | ldVxDt x => exact ldVxDt x
  | ldVxK x => exact ldVxK x
  | ldDtVx x => exact ldDtVx x
  | ldStVx x => exact ldStVx x
  | addI x => exact addI x
  | ldF x => exact ldF x
  | ldB x => exact ldB x
  | storeRegs x => exact storeRegs x
  | loadRegs x => exact loadRegs x

end Sys2Proof.Laws.FamilyNibble
end

