-- ==== Sys2Proof/Tests/Slice0.lean ====
section
/-! SUPPORT. The model's own tests: the well-formedness smoke, every constructor's word written out bit by bit, one-step tests whose
expected results are spec/95_test_vectors.md's (its vector ids stand in the comments), and a witness for the hypotheses of each
statement. -/

namespace Sys2Proof.Machine.Tests

set_option Elab.async false

/-! ### WellFormed refuses an ill-formed term -/

theorem test_sys_with_the_word_of_cls_is_ill_formed : (Instr.sys 0x0E0).wellFormed = false := by decide
theorem test_sys_with_the_word_of_ret_is_ill_formed : (Instr.sys 0x0EE).wellFormed = false := by decide

/-! ### Every constructor's word, from the formats of 30_encoding.md rule R62 -/

theorem test_decode_family_0 :
    decodeWord 0b0000000011100000#16 = .ok .cls ∧ decodeWord 0b0000000011101110#16 = .ok .ret ∧
    decodeWord 0b0000000100100011#16 = .ok (.sys 0x123) ∧ decodeWord 0b0000000000000000#16 = .ok (.sys 0) ∧
    decodeWord 0b0000000111100000#16 = .ok (.sys 0x1E0) := by decide

theorem test_decode_jump_and_call :
    decodeWord 0b0001101010111100#16 = .ok (.jp 0xABC) ∧ decodeWord 0b0010010000000110#16 = .ok (.call 0x406) := by decide

theorem test_decode_skips_and_immediates :
    decodeWord 0b0011101001011100#16 = .ok (.seImm 0xA 0x5C) ∧ decodeWord 0b0100101001011100#16 = .ok (.sneImm 0xA 0x5C) ∧
    decodeWord 0b0101000100100000#16 = .ok (.seReg 0x1 0x2) ∧ decodeWord 0b0110111111111111#16 = .ok (.ldImm 0xF 0xFF) ∧
    decodeWord 0b0111101000000101#16 = .ok (.addImm 0xA 0x05) := by decide

theorem test_decode_family_8 :
    decodeWord 0b1000000100100000#16 = .ok (.ldReg 0x1 0x2) ∧ decodeWord 0b1000000100100001#16 = .ok (.orReg 0x1 0x2) ∧
    decodeWord 0b1000000100100010#16 = .ok (.andReg 0x1 0x2) ∧ decodeWord 0b1000000100100011#16 = .ok (.xorReg 0x1 0x2) ∧
    decodeWord 0b1000000100100100#16 = .ok (.addReg 0x1 0x2) ∧ decodeWord 0b1000000100100101#16 = .ok (.subReg 0x1 0x2) ∧
    decodeWord 0b1000000100100110#16 = .ok (.shr 0x1 0x2) ∧ decodeWord 0b1000000100100111#16 = .ok (.subnReg 0x1 0x2) ∧
    decodeWord 0b1000000100101110#16 = .ok (.shl 0x1 0x2) ∧
    decodeWord 0b1000000100101000#16 = .error (.unrecognized 0x8128) ∧
    decodeWord 0b1000000100101111#16 = .error (.unrecognized 0x812F) := by decide

theorem test_decode_index_jump_random_draw :
    decodeWord 0b1001000100100000#16 = .ok (.sneReg 0x1 0x2) ∧ decodeWord 0b1010000100100011#16 = .ok (.ldI 0x123) ∧
    decodeWord 0b1011111111111111#16 = .ok (.jpV0 0xFFF) ∧ decodeWord 0b1100001100001111#16 = .ok (.rnd 0x3 0x0F) ∧
    decodeWord 0b1101000100100101#16 = .ok (.drw 0x1 0x2 0x5) ∧
    decodeWord 0b1001000100101110#16 = .error (.unrecognized 0x912E) := by decide

theorem test_decode_keys_timers_memory :
    decodeWord 0b1110001010011110#16 = .ok (.skp 0x2) ∧ decodeWord 0b1110001010100001#16 = .ok (.sknp 0x2) ∧
    decodeWord 0b1111000100000111#16 = .ok (.ldVxDt 0x1) ∧ decodeWord 0b1111010100001010#16 = .ok (.ldVxK 0x5) ∧
    decodeWord 0b1111000000010101#16 = .ok (.ldDtVx 0x0) ∧ decodeWord 0b1111010000011000#16 = .ok (.ldStVx 0x4) ∧
    decodeWord 0b1111001000011110#16 = .ok (.addI 0x2) ∧ decodeWord 0b1111000000101001#16 = .ok (.ldF 0x0) ∧
    decodeWord 0b1111001100110011#16 = .ok (.ldB 0x3) ∧ decodeWord 0b1111000101010101#16 = .ok (.storeRegs 0x1) ∧
    decodeWord 0b1111001001100101#16 = .ok (.loadRegs 0x2) ∧
    decodeWord 0b1110000110100010#16 = .error (.unrecognized 0xE1A2) := by decide

theorem test_decode_bytes_takes_two_and_needs_two :
    decodeBytes [0x12, 0x04, 0xFF] = .ok (.jp 0x204, [0xFF]) ∧ decodeBytes [0x12] = .error (.truncated 1) := by decide

theorem test_table_word_is_the_word : decodeTableWord 16 0xD125 = some (.drw 0x1 0x2 0x5) := by decide +kernel

/-! ### One step -/

/-- The start state of spec/95_test_vectors.md: PC is 0x0300 and the word stands there. -/
def start (w : Nat) (s : State) : State := (s.setPc 0x0300).withFetchWord 16 w

/-- What a reading of the state after one cycle gives. -/
def after {α : Type} (s : State) (f : State → α) : Option α :=
  match step s with
  | .next t => some (f t)
  | .fault _ => none
  | .refused _ => none

/-- A reading of the state after one cycle is a reading of the next state. -/
theorem exists_next_of_after {α : Type} {s : State} {f : State → α} {v : α} (h : after s f = some v) :
    ∃ t, step s = .next t ∧ f t = v := by
  unfold after at h
  split at h
  · exact ⟨_, ‹_›, Option.some.inj h⟩
  · cases h
  · cases h

/-- Reset with these values in V1, V2 and VF. -/
def regs (a b f : Byte) : State := ((State.reset.setReg 1 a).setReg 2 b).setReg 0xF f

/-- The inputs of one cycle. -/
def given (s : State) (keys : BitVec 16) (event : Option Nibble) (rand : Byte) : State :=
  presentInput { keys := keys, event := event, rand := rand } s

/-- Reset with SP and the first two stack entries. -/
def stacked (sp : Fin 17) (a b : Word) : State :=
  { State.reset with sp := sp, stack := (State.reset.stack.set 0 a).set 1 b }

/-- A halted state and a waiting one. -/
def halted : State := (State.reset.raise .stackUnderflow 0 0x00EE).setDt 5
def waiting (e : Option Nibble) : State := given (((State.reset.setPc 0x300).setExec (.waitKey 5)).setDt 3 |>.setSt 1) 0 e 0

/-- V-CLS-1. -/
theorem test_cls_clears_and_marks :
    after (start 0x00E0 { State.reset with fb := Framebuffer.toggle Framebuffer.blank 63 31 })
      (fun t => (t.pixel 63 31, t.dirty, t.pc)) = some (false, true, 0x0302) := by decide +kernel

/-- V-RET-1. -/
theorem test_ret_pops : after (start 0x00EE (stacked 2 0x0202 0x0456)) (fun t => (t.pc, t.sp, t.stackEntry 1)) =
    some (0x0456, 1, 0x0456) := by decide +kernel

/-- V-RET-2, V-FAULT-TICK. -/
theorem test_ret_on_empty_stack_halts_without_tick : after (start 0x00EE (State.reset.setDt 5))
    (fun t => (t.execState, t.fault, t.dt, t.pc)) =
    some (.halt, { code := .stackUnderflow, pc := 0x0300, opcode := 0x00EE, info := 0 }, 5, 0x0300) := by decide +kernel

/-- V-SYS-1, V-TICK-1. -/
theorem test_sys_advances_and_ticks : after (start 0x0123 (State.reset.setSt 2))
    (fun t => (t.pc, t.diag, t.st, t.dt, t.stopTone)) = some (0x0302, none, 1, 0, false) := by decide +kernel

/-- V-JP-1. -/
theorem test_jp : after (start 0x1ABC State.reset) (fun t => t.pc) = some 0x0ABC := by decide +kernel

/-- V-CALL-2. -/
theorem test_call_fills_the_last_entry : after (start 0x2400 (stacked 15 0 0)) (fun t => (t.pc, t.sp, t.stackEntry 15)) =
    some (0x0400, 16, 0x0302) := by decide +kernel

/-- V-CALL-3. -/
theorem test_call_on_full_stack_halts : after (start 0x2400 (stacked 16 0 0)) (fun t => (t.execState, t.fault, t.sp)) =
    some (.halt, { code := .stackOverflow, pc := 0x0300, opcode := 0x2400, info := 0 }, 16) := by decide +kernel

/-- V-SE-2, V-SE-3. -/
theorem test_se_immediate : after (start 0x31FF (regs 0xFF 0 0)) (fun t => t.pc) = some 0x0304 ∧
    after (start 0x31FF (regs 0xFE 0 0)) (fun t => t.pc) = some 0x0302 := by decide +kernel

/-- V-SNE-1, V-SNE-2. -/
theorem test_sne_immediate : after (start 0x4100 (regs 0 0 0)) (fun t => t.pc) = some 0x0302 ∧
    after (start 0x4100 (regs 1 0 0)) (fun t => t.pc) = some 0x0304 := by decide +kernel

/-- V-SEr-1, V-SEr-2. -/
theorem test_se_register : after (start 0x5120 (regs 7 7 0)) (fun t => t.pc) = some 0x0304 ∧
    after (start 0x5120 (regs 7 8 0)) (fun t => t.pc) = some 0x0302 := by decide +kernel

/-- V-SEr-4, V-DIAG-TICK. -/
theorem test_unrecognised_word_reports_and_ticks : after (start 0x5121 ((regs 7 7 0).setDt 5))
    (fun t => (t.pc, t.diag, t.dt)) = some (0x0302, some { pc := 0x0300, opcode := 0x5121 }, 4) := by decide +kernel

/-- V-LD-2. -/
theorem test_ld_immediate_to_vf : after (start 0x6FFF State.reset) (fun t => (t.reg 0xF, t.pc)) = some (0xFF, 0x0302) := by
  decide +kernel

/-- V-ADDi-2, with VF from V-ADDi-1. -/
theorem test_add_immediate_leaves_vf : after (start 0x71FF (regs 1 0 0x33)) (fun t => (t.reg 1, t.reg 0xF)) =
    some (0x00, 0x33) := by decide +kernel

/-- V-8XY0. -/
theorem test_ld_register : after (start 0x8120 (regs 0x01 0x99 0)) (fun t => t.reg 1) = some 0x99 := by decide +kernel

/-- V-8XY1, V-8XY2, V-8XY3. -/
theorem test_logic_leaves_vf :
    after (start 0x8121 (regs 0xF0 0x0F 0x55)) (fun t => (t.reg 1, t.reg 0xF)) = some (0xFF, 0x55) ∧
    after (start 0x8122 (regs 0xF0 0x3C 0x55)) (fun t => (t.reg 1, t.reg 0xF)) = some (0x30, 0x55) ∧
    after (start 0x8123 (regs 0xFF 0x0F 0x55)) (fun t => (t.reg 1, t.reg 0xF)) = some (0xF0, 0x55) := by decide +kernel

/-- V-8XY4-1, V-8XY4-2. -/
theorem test_add_carry : after (start 0x8124 (regs 0xFA 0x0A 0)) (fun t => (t.reg 1, t.reg 0xF)) = some (0x04, 1) ∧
    after (start 0x8124 (regs 0xFF 0 0)) (fun t => (t.reg 1, t.reg 0xF)) = some (0xFF, 0) := by decide +kernel

/-- V-8XY4-5. -/
theorem test_add_flag_wins : after (start 0x8F14 (regs 1 0 1)) (fun t => t.reg 0xF) = some 0 := by decide +kernel

/-- V-8XY5-2, V-8XY5-3. -/
theorem test_sub_borrow : after (start 0x8125 (regs 3 5 0)) (fun t => (t.reg 1, t.reg 0xF)) = some (0xFE, 0) ∧
    after (start 0x8125 (regs 7 7 0)) (fun t => (t.reg 1, t.reg 0xF)) = some (0, 1) := by decide +kernel

/-- V-8XY6-1, V-8XY6-2. -/
theorem test_shr : after (start 0x8106 (regs 5 0 0)) (fun t => (t.reg 1, t.reg 0xF)) = some (2, 1) ∧
    after (start 0x8126 (regs 0x80 0xFF 0)) (fun t => (t.reg 1, t.reg 0xF)) = some (0x40, 0) := by decide +kernel

/-- V-8XY7-1, V-8XY7-2. -/
theorem test_subn : after (start 0x8127 (regs 3 5 0)) (fun t => (t.reg 1, t.reg 0xF)) = some (2, 1) ∧
    after (start 0x8127 (regs 5 3 0)) (fun t => (t.reg 1, t.reg 0xF)) = some (0xFE, 0) := by decide +kernel

/-- V-8XYE-1, V-8XYE-2. -/
theorem test_shl : after (start 0x810E (regs 0x81 0 0)) (fun t => (t.reg 1, t.reg 0xF)) = some (2, 1) ∧
    after (start 0x812E (regs 0x40 0xFF 0)) (fun t => (t.reg 1, t.reg 0xF)) = some (0x80, 0) := by decide +kernel

/-- V-SNEr-1, V-SNEr-2. -/
theorem test_sne_register : after (start 0x9120 (regs 1 2 0)) (fun t => t.pc) = some 0x0304 ∧
    after (start 0x9120 (regs 2 2 0)) (fun t => t.pc) = some 0x0302 := by decide +kernel

/-- V-LDI-1. -/
theorem test_ld_i : after (start 0xA123 (State.reset.setI 0xF000)) (fun t => t.i) = some 0x0123 := by decide +kernel

/-- V-JPV0-2, V-JPV0-3. -/
theorem test_jp_v0 : after (start 0xBFFF (State.reset.setReg 0 0xFF)) (fun t => t.pc) = some 0x10FE ∧
    after (start 0xB300 ((regs 0x99 0 0).setReg 0 0x10)) (fun t => t.pc) = some 0x0310 := by decide +kernel

/-- V-RND-1, V-RND-2. -/
theorem test_rnd : after (start 0xC30F (given State.reset 0 none 0xA5)) (fun t => t.reg 3) = some 0x05 ∧
    after (start 0xC300 (given (State.reset.setReg 3 0x77) 0 none 0xA5)) (fun t => t.reg 3) = some 0 := by decide +kernel

/-- V-DRW-3, V-DRW-5. -/
theorem test_drw_wraps_and_collides :
    after (start 0xD121 ((((regs 0x3C 0 0).setMem [(0x400, 0xFF)]).setI 0x400)))
      (fun t => ((t.pixel 60 0, t.pixel 63 0, t.pixel 0 0), t.pixel 3 0, t.pixel 4 0, t.reg 0xF, t.dirty)) =
      some ((true, true, true), true, false, 0, true) ∧
    after (start 0xD341 (({ State.reset with fb := Framebuffer.toggle Framebuffer.blank 1 0 }.setMem
      [(0x400, 0xC0)]).setI 0x400)) (fun t => (t.pixel 0 0, t.pixel 1 0, t.reg 0xF)) = some (true, false, 1) := by
  decide +kernel

/-- V-DRW-7, V-DRW-6. -/
theorem test_drw_at_the_edge_of_memory :
    after (start 0xD012 (State.reset.setI 0x0FFF)) (fun t => (t.execState, t.fault.code, t.fault.info, t.dirty)) =
      some (.halt, .memoryOutOfBounds, 0x1000, false) ∧
    after (start 0xD010 (State.reset.setI 0xFFFF)) (fun t => (t.execState, t.reg 0xF, t.dirty, t.pc)) =
      some (.run, 0, true, 0x0302) := by decide +kernel

/-- V-SKP-1, V-SKP-3. -/
theorem test_skp : after (start 0xE19E (given (regs 5 0 0) 0x0020 none 0)) (fun t => t.pc) = some 0x0304 ∧
    after (start 0xE19E (regs 0x10 0 0)) (fun t => (t.execState, t.fault.code, t.fault.info)) =
      some (.halt, .keyIndexOutOfRange, 0x10) := by decide +kernel

/-- V-SKNP-1, V-SKNP-2. -/
theorem test_sknp : after (start 0xE1A1 (given (regs 5 0 0) 0x0020 none 0)) (fun t => t.pc) = some 0x0302 ∧
    after (start 0xE1A1 (given (regs 4 0 0) 0x0020 none 0)) (fun t => t.pc) = some 0x0304 := by decide +kernel

/-- V-LDVDT-1. -/
theorem test_ld_vx_dt : after (start 0xF107 (State.reset.setDt 9)) (fun t => (t.reg 1, t.dt)) = some (9, 8) := by
  decide +kernel

/-- V-LDK-5, V-LDK-2. -/
theorem test_ld_vx_k : after (start 0xF50A (given State.reset 0x0008 none 0)) (fun t => (t.execState, t.pc)) =
      some (.waitKey 5, 0x0300) ∧
    after (start 0xF50A (given State.reset 0 (some 0xC) 0)) (fun t => (t.reg 5, t.pc, t.execState)) =
      some (0x0C, 0x0302, .run) := by decide +kernel

/-- V-LDK-3, V-LDK-4. -/
theorem test_key_wait : after (waiting none) (fun t => (t.dt, t.st, t.stopTone, t.execState, t.pc)) =
      some (2, 0, true, .waitKey 5, 0x0300) ∧
    after (waiting (some 0xC)) (fun t => (t.reg 5, t.pc, t.execState)) = some (0x0C, 0x0302, .run) := by decide +kernel

/-- V-LDDT-1. -/
theorem test_ld_dt : after (start 0xF115 (regs 3 0 0)) (fun t => t.dt) = some 2 := by decide +kernel

/-- V-LDST-1, V-LDST-2. -/
theorem test_ld_st : after (start 0xF118 (regs 1 0 0)) (fun t => (t.st, t.stopTone, t.tone)) = some (0, true, false) ∧
    after (start 0xF118 ((regs 0 0 0).setSt 5)) (fun t => (t.st, t.stopTone)) = some (0, false) := by decide +kernel

/-- V-ADDI-3, V-ADDI-2. -/
theorem test_add_i : after (start 0xF21E ((regs 0 1 0x77).setI 0xFFFF)) (fun t => (t.i, t.reg 0xF)) = some (0, 0x77) ∧
    after (start 0xF21E ((regs 0 1 0).setI 0x0FFF)) (fun t => t.i) = some 0x1000 := by decide +kernel

/-- V-LDF-3. -/
theorem test_ld_f : after (start 0xF129 (regs 0xFF 0 0)) (fun t => t.i) = some 0x054B := by decide +kernel

/-- V-BCD-1, V-BCD-4. -/
theorem test_ld_b : after (start 0xF133 ((regs 0xFE 0 0).setI 0x400)) (fun t => (t.byte 0x400, t.byte 0x401, t.byte 0x402)) =
      some (2, 5, 4) ∧
    after (start 0xF133 ((regs 1 0 0).setI 0x0FFE)) (fun t => (t.execState, t.fault.info, t.mem.find 0xFFE)) =
      some (.halt, 0x1000, none) := by decide +kernel

/-- V-STR-1, V-STR-2. -/
theorem test_store_registers : after (start 0xF155 ((regs 2 3 0).setI 0x400 |>.setReg 0 1))
      (fun t => (t.byte 0x400, t.byte 0x401, t.mem.find 0x402, t.i)) = some (1, 2, none, 0x400) ∧
    after (start 0xF055 ((State.reset.setReg 0 0xAA).setI 0x0FFF)) (fun t => t.byte 0xFFF) = some 0xAA := by decide +kernel

/-- V-LDR-1, V-LDR-3. -/
theorem test_load_registers : after (start 0xF265 ((State.reset.setMem [(0x400, 2), (0x401, 5), (0x402, 4)]).setI 0x400))
      (fun t => (t.reg 0, t.reg 1, t.reg 2, t.i)) = some (2, 5, 4, 0x400) ∧
    after (start 0xF165 ((regs 7 0 0).setI 0xFFFF)) (fun t => (t.fault.code, t.fault.info, t.reg 1)) =
      some (.memoryOutOfBounds, 0xFFFF, 7) := by decide +kernel

/-- V-FETCH-1, V-FETCH-2. -/
theorem test_fetch_outside_memory : after (State.reset.setPc 0x0FFF) (fun t => t.fault) =
      some { code := .fetchOutOfBounds, pc := 0x0FFF, opcode := 0, info := 0 } ∧
    after (State.reset.setPc 0x1000) (fun t => t.execState) = some .halt := by decide +kernel

/-- V-HALT. -/
theorem test_halt_does_nothing : after halted (fun t => (t.dt, t.pc, t.execState, t.stopTone)) =
    some (5, 0x0200, .halt, false) := by decide +kernel

/-- V-LOAD-3 and P1's first word, run as the first cycle after the load. -/
theorem test_load_then_run : (match loadProgram [0x60, 0x05] State.reset with
    | .next t => after t (fun u => (u.reg 0, u.pc))
    | .fault _ => none
    | .refused _ => none) = some (5, 0x0202) := by decide +kernel

/-- The font of 70_reset_and_hazards.md rule R172 at both ends: glyph 0 at 0x050, the last byte of glyph F at 0x09F. -/
theorem test_font_after_reset : State.reset.byte 0x050 = 0xF0 ∧ State.reset.byte 0x082 = 0xF0 ∧
    State.reset.byte 0x09F = 0x80 := by decide +kernel

/-! ### Witnesses: states and operands that meet the hypotheses of each statement -/

theorem witness_wellformed : (Instr.sys 0x123).wellFormed = true := by decide
theorem witness_decoded_word : decodeWord 0x0123 = .ok (.sys 0x123) := by decide
theorem witness_unrecognised_each_pattern :
    (opFamily 0x5121 = 0x5#4 ∧ opN 0x5121 ≠ 0x0#4) ∧ (opFamily 0x812F = 0x8#4 ∧ opN 0x812F = 0xF#4) ∧
    (opFamily 0x9001 = 0x9#4 ∧ opN 0x9001 ≠ 0x0#4) ∧ (opFamily 0xE09F = 0xE#4 ∧ opNN 0xE09F ∉ [0x9E#8, 0xA1#8]) ∧
    (opFamily 0xF066 = 0xF#4 ∧
      opNN 0xF066 ∉ [0x07#8, 0x0A#8, 0x15#8, 0x18#8, 0x1E#8, 0x29#8, 0x33#8, 0x55#8, 0x65#8]) := by decide

/-- The last address a word can be fetched from. -/
def topWord (w : Nat) : State := (State.reset.setPc 0x0FFE).withFetchWord 16 w

theorem witness_StepRunsTheDecodedInstruction : ∃ t, (topWord 0x0123).execState = .run ∧ (topWord 0x0123).pc.toNat + 1 < 4096 ∧
    decodeWord ((topWord 0x0123).byte (topWord 0x0123).pc.toNat ++ (topWord 0x0123).byte ((topWord 0x0123).pc.toNat + 1)) =
      .ok (.sys 0x123) ∧ exec (.sys 0x123) (topWord 0x0123) = .next t :=
  ⟨_, by decide +kernel, by decide +kernel, by decide +kernel, rfl⟩

theorem witness_CycleEndTicksUnlessHalted : halted.execState = .halt ∧ State.reset.execState ≠ .halt := by decide +kernel
theorem witness_TickCountsDownAndSaturates : 0 < (State.reset.setDt 1).dt.toNat ∧ State.reset.dt = 0 ∧
    0 < (State.reset.setSt 1).st.toNat ∧ State.reset.st = 0 := by decide +kernel
theorem witness_UnrecognisedWordIsReportedAndSkipped : (topWord 0x5121).execState = .run ∧
    (topWord 0x5121).pc.toNat + 1 < 4096 ∧
    (0x5121 : Word) = (topWord 0x5121).byte (topWord 0x5121).pc.toNat ++ (topWord 0x5121).byte ((topWord 0x5121).pc.toNat + 1) ∧
    decodeWord 0x5121 = .error (.unrecognized 0x5121) := by decide +kernel
theorem witness_FetchOutsideMemoryHalts : (State.reset.setPc 0x0FFF).execState = .run ∧
    0x0FFF ≤ (State.reset.setPc 0x0FFF).pc.toNat := by decide +kernel
theorem witness_KeyWaitEndsWithAKeyPress : (waiting none).execState = .waitKey 5 ∧ (waiting none).input.event = none ∧
    (waiting (some 15)).execState = .waitKey 5 ∧ (waiting (some 15)).input.event = some 15 := by decide +kernel

/-- A step from RUN into HALT: RET on an empty stack. -/
theorem witness_FatalErrorIsPrecise : (start 0x00EE State.reset).execState ≠ .halt ∧
    ∃ t, step (start 0x00EE State.reset) = .next t ∧ t.execState = .halt :=
  ⟨by decide +kernel, exists_next_of_after (by decide +kernel)⟩

theorem witness_InstructionsHaltExactlyOnTheListedOperands : ∃ t, State.reset.execState ≠ .halt ∧
    exec .ret State.reset = .next t ∧ State.reset.sp.val = 0 :=
  ⟨_, by decide +kernel, rfl, rfl⟩
theorem witness_halting_operands_at_their_bounds : (stacked 16 0 0).sp.val = 16 ∧ 15 < ((regs 16 0 0).reg 1).toNat ∧
    4096 ≤ (State.reset.setI 0x0FFF).i.toNat + (2#4).toNat - 1 ∧ 4096 ≤ (State.reset.setI 0x0FFE).i.toNat + 2 ∧
    4096 ≤ (State.reset.setI 0x0FFF).i.toNat + (1#4).toNat := by decide +kernel

theorem witness_StopToneComesFromTheTickAlone :
    ∃ t, step (start 0xF118 (regs 1 0 0)) = .next t ∧ t.stopTone = true :=
  exists_next_of_after (by decide +kernel)

theorem witness_LoadProgramWritesTheImage : State.reset.loadOpen = true ∧ 3584 < (List.replicate 3585 (0 : Byte)).length ∧
    (List.replicate 3584 (0 : Byte)).length ≤ 3584 := by
  exact ⟨rfl, by rw [List.length_replicate]; decide, (List.length_replicate ..).le⟩
theorem witness_LoadIsAdmittedOnlyBetweenResetAndTheFirstCycle : ∃ t, step halted = .next t :=
  ⟨completeCycle none halted, rfl⟩

theorem witness_invariants : State.reset.Inv ∧ State.reset.PcBounded := by
  refine ⟨⟨rfl, fun h => (by cases h), fun _ => rfl⟩, by decide +kernel, fun x h => (by cases h), fun k => ?_⟩
  simp [State.stackEntry, State.reset]
theorem witness_StepKeepsTheInvariants : ∃ t, step (start 0x0123 State.reset) = .next t ∧ t.pc = 0x0302 :=
  exists_next_of_after (by decide +kernel)
theorem witness_halted_meets_the_invariants : halted.Inv ∧ halted.PcBounded ∧ step halted = .next (completeCycle none halted) := by
  refine ⟨⟨rfl, fun _ => ⟨⟨rfl, rfl⟩, rfl⟩, fun h => absurd rfl h⟩, ⟨by decide +kernel, fun x h => (by cases h), fun k => ?_⟩,
    rfl⟩
  simp [State.stackEntry, halted, State.raise, State.setDt, State.reset]

theorem witness_SysOnlyAdvances : (start 0x0123 State.reset).execState = .run ∧
    fetchWord (start 0x0123 State.reset) = some (0x0#4 ++ 0x123#12) ∧
    ∃ t, step (start 0x0123 State.reset) = .next t ∧ t.diag = none :=
  ⟨by decide +kernel, by decide +kernel, exists_next_of_after (by decide +kernel)⟩
theorem witness_CallPushesAndJumps : (stacked 15 0 0).sp.val < 16 ∧ (stacked 16 0 0).sp.val = 16 := by decide +kernel
theorem witness_RetPopsAndResumes : 0 < (stacked 1 0x0202 0).sp.val ∧ State.reset.sp.val = 0 := by decide +kernel
theorem witness_RetAfterCallResumesAfterTheCall : ∃ t, State.reset.sp.val < 16 ∧ exec (.call 0x300) State.reset = .next t :=
  ⟨_, by decide +kernel, rfl⟩
theorem witness_SkipsTestTheirCondition : State.reset.reg 0 = 0 ∧ (State.reset.reg 0 ≠ 1) ∧ State.reset.reg 0 = State.reset.reg 1 ∧
    (regs 1 2 0).reg 1 ≠ (regs 1 2 0).reg 2 ∧ 0x0FFB ≤ (State.reset.setPc 0x0FFB).pc.toNat ∧
    (State.reset.setPc 0x0FFE).pc.toNat ≤ 0x0FFE := by decide +kernel
theorem witness_RndMasksTheRandomByte : (given State.reset 0 none 0xA5).inputs = { keys := 0, event := none, rand := 0xA5 } :: [] :=
  rfl

/-- The `n` bytes at the top of memory, and none at an I outside it. -/
theorem witness_inMemory : (State.reset.setI 0x0FFD).inMemory 3 ∧ (State.reset.setI 0x0FF0).inMemory ((0xF#4).toNat + 1) ∧
    (State.reset.setI 0xFFFF).inMemory (0#4).toNat :=
  ⟨.inr (by decide +kernel), .inr (by decide +kernel), .inl rfl⟩
theorem witness_not_inMemory : ¬ (State.reset.setI 0x0FFE).inMemory 3 ∧ ¬ (State.reset.setI 0x0FFF).inMemory ((1#4).toNat + 1) ∧
    ¬ (State.reset.setI 0x0FFF).inMemory (2#4).toNat := by
  refine ⟨?_, ?_, ?_⟩ <;> (unfold State.inMemory; decide +kernel)

/-- A sprite cell set and one clear, under a set bit of the font's glyph 0. -/
theorem witness_DrawXorsTheSprite : (State.reset.setI 0x050).inMemory (5#4).toNat ∧
    (State.reset.setI 0x050).spriteCell 0 1 5 3 0 = true ∧ (State.reset.setI 0x050).spriteCell 0 1 5 4 0 = false ∧
    { State.reset.setI 0x050 with fb := Framebuffer.toggle Framebuffer.blank 3 0 }.pixel 3 0 = true :=
  ⟨.inr (by decide +kernel), by decide +kernel, by decide +kernel, by decide +kernel⟩
theorem witness_DrawTwiceRestoresTheFramebuffer :
    (drawEffect 0 1 5 (State.reset.setI 0x050)).reg 0 = (State.reset.setI 0x050).reg 0 ∧
    (drawEffect 0 1 5 (State.reset.setI 0x050)).reg 1 = (State.reset.setI 0x050).reg 1 := by decide +kernel
theorem witness_KeySkipsTestTheKey : ((regs 15 0 0).reg 1).toNat = (15#4).toNat := by decide +kernel
theorem witness_KeySkipsHaltAboveKeyF : 15 < ((regs 16 0 0).reg 1).toNat := by decide +kernel
theorem witness_LdVxKTakesAKeyPress : (given State.reset 0 (some 0) 0).input.event = some 0 ∧
    (given State.reset 0 none 0).input.event = none := by decide +kernel
theorem witness_TimerTransfersComeBeforeTheTick : State.reset.execState ≠ .halt := by decide +kernel
theorem witness_StoredRegistersLoadBack : ∃ t, (State.reset.setI 0x0FFF).inMemory ((0#4).toNat + 1) ∧
    exec (.storeRegs 0) (State.reset.setI 0x0FFF) = .next t :=
  ⟨_, .inr (by decide +kernel), rfl⟩
theorem witness_StoredBytesAreFetchedNext : 1 ≤ (1#4).toNat ∧ (State.reset.setI 0x0202).inMemory ((1#4).toNat + 1) ∧
    (State.reset.setI 0x0202).i = (State.reset.setI 0x0202).pc + 2 :=
  ⟨by decide, .inr (by decide +kernel), by decide +kernel⟩
theorem witness_RegisterInstructionsChangeOnlyTheirTargets : (∃ t, exec (.addReg 0xF 1) State.reset = .next t) ∧
    flaggedDestination (.addReg 0xF 1) = some 0xF ∧ (∃ t, exec (.ldVxDt 0xF) State.reset = .next t) ∧
    plainDestination (.ldVxDt 0xF) = some 0xF :=
  ⟨⟨_, rfl⟩, rfl, ⟨_, rfl⟩, rfl⟩
theorem witness_FlowAndClearChangeOnlyTheirTargets : (∃ t, exec (.jpV0 0xFFF) State.reset = .next t) ∧
    (∃ t, exec (.ldI 0xFFF) State.reset = .next t) ∧ ∃ t, exec .cls State.reset = .next t :=
  ⟨⟨_, rfl⟩, ⟨_, rfl⟩, ⟨_, rfl⟩⟩

/-- One instruction for each kind of state, each of which changes it. -/
theorem witness_OnlyTheNamedInstructionsChangeEachState :
    (∃ t, exec (.ldImm 3 7) State.reset = .next t ∧ t.reg 3 ≠ State.reset.reg 3) ∧
    (∃ t, exec (.ldI 0x123) State.reset = .next t ∧ t.i ≠ State.reset.i) ∧
    (∃ t, exec (.call 0x300) State.reset = .next t ∧ t.sp ≠ State.reset.sp ∧ t.stackEntry 0 ≠ State.reset.stackEntry 0) ∧
    (∃ t, exec .ret State.reset = .next t ∧ t.execState ≠ State.reset.execState ∧ t.fault ≠ State.reset.fault) ∧
    (∃ t, exec .cls State.reset = .next t ∧ t.dirty ≠ State.reset.dirty) ∧
    (∃ t, exec (.ldB 1) ((regs 9 0 0).setI 0x052) = .next t ∧ t.byte 0x052 ≠ ((regs 9 0 0).setI 0x052).byte 0x052) ∧
    ∃ t, exec (.ldVxK 5) (given State.reset 0 none 0) = .next t ∧ t.execState ≠ State.reset.execState :=
  ⟨⟨_, rfl, by decide +kernel⟩, ⟨_, rfl, by decide +kernel⟩, ⟨_, rfl, by decide +kernel, by decide +kernel⟩,
    ⟨_, rfl, by decide +kernel, by decide +kernel⟩, ⟨_, rfl, by decide +kernel⟩, ⟨_, rfl, by decide +kernel⟩,
    _, rfl, by decide +kernel⟩
theorem witness_key_wait_and_register_load : (∃ t, exec (.ldVxK 0xF) State.reset = .next t) ∧
    ∃ t, exec (.loadRegs 0xF) State.reset = .next t :=
  ⟨⟨_, rfl⟩, _, rfl⟩

/-- A fatal error after a fetched word, and one where no word can be fetched. -/
theorem witness_fatal_error_with_and_without_a_word : fetchWord (start 0x00EE State.reset) = some 0x00EE ∧
    fetchWord (State.reset.setPc 0x0FFF) = none := by decide +kernel

/-- A cycle that runs FX18 and pulses. -/
theorem witness_pulse_by_fx18 : (start 0xF118 (regs 1 0 0)).execState = .run ∧
    fetchWord (start 0xF118 (regs 1 0 0)) = some (encode (.ldStVx 1)) := by decide +kernel

/-- FX18 writing 0 over ST = 1 gives no pulse (44_keys_timers_memory.md R125, D31). -/
theorem test_ld_st_zero_over_one_is_silent : after (start 0xF118 ((regs 0 0 0).setSt 1)) (fun t => (t.st, t.stopTone)) =
    some (0, false) := by decide +kernel

/-- Every EXEC and every fault code stands in some state. -/
theorem witness_StatusAndToneReportTheState : State.reset.execState = .run ∧ (waiting none).execState = .waitKey 5 ∧
    halted.execState = .halt ∧ State.reset.fault.code = .none ∧
    (∀ c, (State.reset.raise c 0 0).fault.code = c) ∧ (State.reset.setSt 1).st ≠ 0 ∧ State.reset.st = 0 :=
  ⟨rfl, rfl, rfl, rfl, fun _ => rfl, by decide +kernel, rfl⟩

end Sys2Proof.Machine.Tests
end

/-! The skips on registers (O30): the words 3XNN, 4XNN, 5XYn and 9XYn, where a skip lands, and what it leaves unchanged. -/

namespace Sys2Proof

@[simp] theorem decodeWord_seImm (x : Nibble) (nn : Byte) : decodeWord (0x3#4 ++ x ++ nn) = .ok (.seImm x nn) := by
  simp [decodeWord]

@[simp] theorem decodeWord_sneImm (x : Nibble) (nn : Byte) : decodeWord (0x4#4 ++ x ++ nn) = .ok (.sneImm x nn) := by
  simp [decodeWord]

/-- Family 0x5 rests on its low nibble alone (30_encoding.md R65). -/
theorem decodeWord_family5 (x y n : Nibble) : decodeWord (0x5#4 ++ x ++ y ++ n) =
    if n = 0x0#4 then .ok (.seReg x y) else .error (.unrecognized (0x5#4 ++ x ++ y ++ n)) := by
  simp [decodeWord, decodeLowNibbleZero]

/-- Family 0x9 rests on its low nibble alone (30_encoding.md R65). -/
theorem decodeWord_family9 (x y n : Nibble) : decodeWord (0x9#4 ++ x ++ y ++ n) =
    if n = 0x0#4 then .ok (.sneReg x y) else .error (.unrecognized (0x9#4 ++ x ++ y ++ n)) := by
  simp [decodeWord, decodeLowNibbleZero]

end Sys2Proof

namespace Sys2Proof.Machine

/-- A skip taken from 0x0FFB to 0x0FFE lands at 0x0FFF or above, where no whole word lies in memory (R64, R180). -/
theorem fetchWord_skipIf_none {s : State} (hlo : 0x0FFB ≤ s.pc.toNat) (hhi : s.pc.toNat ≤ 0x0FFE) :
    fetchWord (s.skipIf true) = none := by
  have hpc : (s.skipIf true).pc.toNat = s.pc.toNat + 4 := by
    simp only [skipIf_pc, if_true]
    bv_omega
  apply fetchWord_none
  rw [hpc, show Config.memSize = 4096 from rfl]
  omega

theorem exec_seImm (x : Nibble) (nn : Byte) (s : State) :
    exec (.seImm x nn) s = .next (s.skipIf (decide (s.reg x = nn))) := rfl

theorem exec_sneImm (x : Nibble) (nn : Byte) (s : State) :
    exec (.sneImm x nn) s = .next (s.skipIf (decide (s.reg x ≠ nn))) := rfl

theorem exec_seReg (x y : Nibble) (s : State) :
    exec (.seReg x y) s = .next (s.skipIf (decide (s.reg x = s.reg y))) := rfl

theorem exec_sneReg (x y : Nibble) (s : State) :
    exec (.sneReg x y) s = .next (s.skipIf (decide (s.reg x ≠ s.reg y))) := rfl

/-- What an instruction does whose whole effect is a skip on `p`, said of any condition `c` that means the same. -/
theorem exec_skip_spec {i : Instr} {s : State} {c p : Prop} [Decidable p]
    (he : exec i s = .next (s.skipIf (decide p))) (hc : c ↔ p) :
    ∃ t, exec i s = .next t ∧ (c → t.pc = s.pc + 4) ∧ (¬ c → t.pc = s.pc + 2) ∧
      t.reg 0xF = s.reg 0xF ∧ t.execState = s.execState ∧
      (c → 0x0FFB ≤ s.pc.toNat → s.pc.toNat ≤ 0x0FFE → fetchWord t = none) := by
  rw [hc]
  refine ⟨_, he, ?taken, ?notTaken, skipIf_reg s _ _, skipIf_execState s _, ?noWord⟩
  case taken => intro hp; simp [hp]
  case notTaken => intro hp; simp [hp]
  case noWord => intro hp; rw [decide_eq_true hp]; exact fetchWord_skipIf_none

/-- Settles O30: each of the four skips is `skipIf` on its own comparison, and the low nibble of 5XYn and 9XYn decides
between the skip and an unrecognised word. -/
theorem skipsTestTheirCondition : Obligations.SkipsTestTheirCondition := by
  intro s x y nn
  refine ⟨decodeWord_seImm x nn, decodeWord_sneImm x nn, (decodeWord_family5 x y 0x0).trans (if_pos rfl),
    (decodeWord_family9 x y 0x0).trans (if_pos rfl), ?unrecognized, ?effect⟩
  case unrecognized =>
    rintro n hn w (rfl | rfl)
    · exact (decodeWord_family5 x y n).trans (if_neg hn)
    · exact (decodeWord_family9 x y n).trans (if_neg hn)
  case effect =>
    rintro i c (⟨rfl, hc⟩ | ⟨rfl, hc⟩ | ⟨rfl, hc⟩ | ⟨rfl, hc⟩)
    · exact exec_skip_spec (exec_seImm x nn s) hc
    · exact exec_skip_spec (exec_sneImm x nn s) hc
    · exact exec_skip_spec (exec_seReg x y s) hc
    · exact exec_skip_spec (exec_sneReg x y s) hc

end Sys2Proof.Machine

/-! Clear and jump (O24, O26): the effect of 00E0 and 1NNN by the state's operations, and the words they stand for. -/

namespace Sys2Proof

theorem decodeWord_cls : decodeWord 0x00E0#16 = .ok .cls := by decide

@[simp] theorem decodeWord_jp (nnn : Addr) : decodeWord (0x1#4 ++ nnn) = .ok (.jp nnn) := by
  simp [decodeWord]

end Sys2Proof

namespace Sys2Proof.Machine

/-- Zero extension keeps the number a 12-bit address stands for (30_encoding.md R63). -/
@[simp] theorem zextAddr_toNat (nnn : Addr) : (zextAddr nnn).toNat = nnn.toNat :=
  BitVec.toNat_setWidth_of_le (by decide)

theorem exec_cls (s : State) : exec .cls s = .next (s.setDisplay Framebuffer.blank).advance := rfl

theorem exec_jp (nnn : Addr) (s : State) : exec (.jp nnn) s = .next (s.setPc (zextAddr nnn)) := rfl

/-- Settles O24: CLS puts the blank framebuffer in place, whose every cell is clear, and advances. -/
theorem clsClearsEveryCell : Obligations.ClsClearsEveryCell := by
  refine ⟨decodeWord_cls, fun s => ⟨_, exec_cls s, ?clear, ?dirty, ?pc, ?flag, ?exec⟩⟩
  case clear =>
    intro c r
    rw [advance_pixel, setDisplay_pixel, blank_pixel]
  case dirty => simp
  case pc => simp
  case flag => simp
  case exec => simp

/-- Settles O26: a 12-bit target is zero-extended into PC, and 0xFFF leaves no room for a whole word (R64). -/
theorem jpGoesToItsTarget : Obligations.JpGoesToItsTarget := by
  intro s nnn
  have hpc : (s.setPc (zextAddr nnn)).pc.toNat = nnn.toNat := by
    rw [setPc_pc, zextAddr_toNat]
  refine ⟨decodeWord_jp nnn, _, exec_jp nnn s, hpc, setPc_reg s _ _, setPc_execState s _, ?noWord⟩
  case noWord =>
    rintro rfl
    apply fetchWord_none
    rw [hpc]
    decide

end Sys2Proof.Machine

/-! Loads and the immediate addition (O31): the words 6XNN, 7XNN and 8XY0, and the one register each writes. -/

namespace Sys2Proof

@[simp] theorem decodeWord_ldImm (x : Nibble) (nn : Byte) : decodeWord (0x6#4 ++ x ++ nn) = .ok (.ldImm x nn) := by
  simp [decodeWord]

@[simp] theorem decodeWord_addImm (x : Nibble) (nn : Byte) : decodeWord (0x7#4 ++ x ++ nn) = .ok (.addImm x nn) := by
  simp [decodeWord]

/-- A word of family 0x8 is left to that family's own table (30_encoding.md R65). -/
theorem decodeWord_family8 (x y n : Nibble) :
    decodeWord (0x8#4 ++ x ++ y ++ n) = decodeFamily8 (0x8#4 ++ x ++ y ++ n) := by
  simp [decodeWord]

@[simp] theorem decodeWord_ldReg (x y : Nibble) : decodeWord (0x8#4 ++ x ++ y ++ 0x0#4) = .ok (.ldReg x y) := by
  rw [decodeWord_family8]
  simp [decodeFamily8]

end Sys2Proof

namespace Sys2Proof.Machine

theorem exec_ldImm (x : Nibble) (nn : Byte) (s : State) :
    exec (.ldImm x nn) s = .next (s.setReg x nn).advance := rfl

theorem exec_addImm (x : Nibble) (nn : Byte) (s : State) :
    exec (.addImm x nn) s = .next (s.setReg x (s.reg x + nn)).advance := rfl

theorem exec_ldReg (x y : Nibble) (s : State) :
    exec (.ldReg x y) s = .next (s.setReg x (s.reg y)).advance := rfl

/-- What an instruction does whose whole effect is to write `b` to V[x] and advance. -/
theorem exec_setReg_spec {i : Instr} {s : State} {x : Nibble} {b : Byte}
    (he : exec i s = .next (s.setReg x b).advance) :
    ∃ t, exec i s = .next t ∧ t.reg x = b ∧ t.pc = s.pc + 2 ∧
      (x ≠ 0xF → t.reg 0xF = s.reg 0xF) ∧ t.execState = s.execState := by
  refine ⟨_, he, ?result, ?pc, ?flag, ?exec⟩
  case result => rw [advance_reg, setReg_reg_same]
  case pc => rw [advance_pc, setReg_pc]
  case flag =>
    intro hx
    rw [advance_reg, setReg_reg_ne s x 0xF b hx.symm]
  case exec => rw [advance_execState, setReg_execState]

/-- Settles O31: each of the three writes one byte to V[x] and advances, and 7XNN's byte is the sum modulo 256 that
bit-vector addition is. -/
theorem loadsAndAddImmediate : Obligations.LoadsAndAddImmediate := by
  intro s x y nn
  obtain ⟨t, hexec, hsum, hframe⟩ := exec_setReg_spec (exec_addImm x nn s)
  have hmod : (t.reg x).toNat = ((s.reg x).toNat + nn.toNat) % 256 := by
    rw [hsum, BitVec.toNat_add]
  exact ⟨decodeWord_ldImm x nn, decodeWord_addImm x nn, decodeWord_ldReg x y,
    exec_setReg_spec (exec_ldImm x nn s), ⟨t, hexec, hmod, hframe⟩, exec_setReg_spec (exec_ldReg x y s)⟩

end Sys2Proof.Machine

/-! The flag-writing register ALU (O33, O34): the words 8XY4 to 8XY7 and 8XYE, the arithmetic of their results and flags, and
the flag written last (42_alu.md R100). -/

namespace Sys2Proof

@[simp] theorem decodeWord_addReg (x y : Nibble) : decodeWord (0x8#4 ++ x ++ y ++ 0x4#4) = .ok (.addReg x y) := by
  rw [decodeWord_family8]
  simp [decodeFamily8]

@[simp] theorem decodeWord_subReg (x y : Nibble) : decodeWord (0x8#4 ++ x ++ y ++ 0x5#4) = .ok (.subReg x y) := by
  rw [decodeWord_family8]
  simp [decodeFamily8]

@[simp] theorem decodeWord_shr (x y : Nibble) : decodeWord (0x8#4 ++ x ++ y ++ 0x6#4) = .ok (.shr x y) := by
  rw [decodeWord_family8]
  simp [decodeFamily8]

@[simp] theorem decodeWord_subnReg (x y : Nibble) : decodeWord (0x8#4 ++ x ++ y ++ 0x7#4) = .ok (.subnReg x y) := by
  rw [decodeWord_family8]
  simp [decodeFamily8]

@[simp] theorem decodeWord_shl (x y : Nibble) : decodeWord (0x8#4 ++ x ++ y ++ 0xE#4) = .ok (.shl x y) := by
  rw [decodeWord_family8]
  simp [decodeFamily8]

/-- The difference modulo 256 as R106 computes it, with 256 added before the subtraction. -/
theorem byte_toNat_sub (a b : Byte) : (a - b).toNat = (a.toNat + 256 - b.toNat) % 256 := by
  have hb : b.toNat < 256 := b.isLt
  rw [BitVec.toNat_sub]
  omega

theorem byte_toNat_shiftRight_one (b : Byte) : (b >>> 1).toNat = b.toNat / 2 := by
  rw [BitVec.toNat_ushiftRight, Nat.shiftRight_one]

theorem byte_toNat_shiftLeft_one (b : Byte) : (b <<< 1).toNat = b.toNat * 2 % 256 := by
  rw [BitVec.toNat_shiftLeft, Nat.shiftLeft_eq]

end Sys2Proof

namespace Sys2Proof.Machine

theorem flagByte_toNat (f : Bool) : (flagByte f).toNat = f.toNat := by
  cases f <;> rfl

theorem flagByte_carryFlag (a b : Byte) :
    flagByte (carryFlag a b) = if 255 < a.toNat + b.toNat then 1 else 0 := by
  simp [flagByte, carryFlag]

theorem flagByte_noBorrowFlag (a b : Byte) :
    flagByte (noBorrowFlag a b) = if b.toNat ≤ a.toNat then 1 else 0 := by
  simp [flagByte, noBorrowFlag]

/-- Bit 0 of a byte is its remainder by 2 (R107). -/
theorem flagByte_shiftedOutRight_toNat (b : Byte) : (flagByte (shiftedOutRight b)).toNat = b.toNat % 2 := by
  rw [flagByte_toNat, shiftedOutRight, BitVec.getLsbD, Nat.toNat_testBit, Nat.pow_zero, Nat.div_one]

/-- Bit 7 of a byte is its quotient by 128 (R109). -/
theorem flagByte_shiftedOutLeft_toNat (b : Byte) : (flagByte (shiftedOutLeft b)).toNat = b.toNat / 128 := by
  have hb : b.toNat < 256 := b.isLt
  rw [flagByte_toNat, shiftedOutLeft, BitVec.getLsbD, Nat.toNat_testBit]
  omega

/-- VF holds the flag after the two writes, for every x, F included (R11, R100). -/
@[simp] theorem setResultFlag_reg_vf (s : State) (x : Nibble) (b : Byte) (f : Bool) :
    (s.setResultFlag x b f).reg vf = flagByte f :=
  setReg_reg_same _ vf _

/-- V[x] keeps the result unless x = F. -/
theorem setResultFlag_reg_result {s : State} {x : Nibble} {b : Byte} {f : Bool} (hx : x ≠ vf) :
    (s.setResultFlag x b f).reg x = b := by
  rw [setResultFlag_reg, if_neg hx, if_pos rfl]

theorem exec_addReg (x y : Nibble) (s : State) : exec (.addReg x y) s =
    .next (s.setResultFlag x (s.reg x + s.reg y) (carryFlag (s.reg x) (s.reg y))).advance := rfl

theorem exec_subReg (x y : Nibble) (s : State) : exec (.subReg x y) s =
    .next (s.setResultFlag x (s.reg x - s.reg y) (noBorrowFlag (s.reg x) (s.reg y))).advance := rfl

theorem exec_subnReg (x y : Nibble) (s : State) : exec (.subnReg x y) s =
    .next (s.setResultFlag x (s.reg y - s.reg x) (noBorrowFlag (s.reg y) (s.reg x))).advance := rfl

theorem exec_shr (x y : Nibble) (s : State) : exec (.shr x y) s =
    .next (s.setResultFlag x (s.reg x >>> 1) (shiftedOutRight (s.reg x))).advance := rfl

theorem exec_shl (x y : Nibble) (s : State) : exec (.shl x y) s =
    .next (s.setResultFlag x (s.reg x <<< 1) (shiftedOutLeft (s.reg x))).advance := rfl

/-- What an instruction does whose whole effect is to write a result and then a flag and to advance, said of the result's
number `n`. -/
theorem exec_setResultFlag_spec {i : Instr} {s : State} {x : Nibble} {b : Byte} {f : Bool} {n : Nat}
    (he : exec i s = .next (s.setResultFlag x b f).advance) (hn : b.toNat = n) :
    ∃ t, exec i s = .next t ∧ (x ≠ 0xF → (t.reg x).toNat = n) ∧ t.reg 0xF = flagByte f ∧
      t.pc = s.pc + 2 ∧ t.execState = s.execState := by
  refine ⟨_, he, ?result, ?flag, ?pc, ?exec⟩
  case result =>
    intro hx
    rw [advance_reg, setResultFlag_reg_result hx, hn]
  case flag => exact setResultFlag_reg_vf s x b f
  case pc => rw [advance_pc, setResultFlag_pc]
  case exec => rw [advance_execState, setResultFlag_execState]

/-- Settles O33: each of the three writes its result and then its flag, both functions of the operands as they were, and
the flag's byte is the comparison of exact sums that R105, R106 and R108 name. -/
theorem addAndSubtractSetTheirFlag : Obligations.AddAndSubtractSetTheirFlag := by
  intro s x y
  have hadd := exec_setResultFlag_spec (exec_addReg x y s) (BitVec.toNat_add _ _)
  have hsub := exec_setResultFlag_spec (exec_subReg x y s) (byte_toNat_sub _ _)
  have hsubn := exec_setResultFlag_spec (exec_subnReg x y s) (byte_toNat_sub _ _)
  rw [flagByte_carryFlag] at hadd
  rw [flagByte_noBorrowFlag] at hsub hsubn
  exact ⟨decodeWord_addReg x y, decodeWord_subReg x y, decodeWord_subnReg x y, hadd, hsub, hsubn⟩

/-- Settles O34: both shifts write the shifted V[x] and then the bit it lost, and nothing of their effect names y. -/
theorem shiftsSetTheBitShiftedOut : Obligations.ShiftsSetTheBitShiftedOut := by
  intro s x y
  refine ⟨decodeWord_shr x y, decodeWord_shl x y, ?right, ?left, ?ignored⟩
  case right =>
    obtain ⟨t, hexec, hresult, hflag, hframe⟩ :=
      exec_setResultFlag_spec (exec_shr x y s) (byte_toNat_shiftRight_one _)
    exact ⟨t, hexec, hresult, hflag ▸ flagByte_shiftedOutRight_toNat _, hframe⟩
  case left =>
    obtain ⟨t, hexec, hresult, hflag, hframe⟩ :=
      exec_setResultFlag_spec (exec_shl x y s) (byte_toNat_shiftLeft_one _)
    exact ⟨t, hexec, hresult, hflag ▸ flagByte_shiftedOutLeft_toNat _, hframe⟩
  case ignored =>
    intro z
    exact ⟨(exec_shr x z s).trans (exec_shr x y s).symm, (exec_shl x z s).trans (exec_shl x y s).symm⟩

end Sys2Proof.Machine

/-! The index load (O35): the word ANNN, and I as the one field it writes besides PC. -/

namespace Sys2Proof

@[simp] theorem decodeWord_ldI (nnn : Addr) : decodeWord (0xA#4 ++ nnn) = .ok (.ldI nnn) := by
  simp [decodeWord]

end Sys2Proof

namespace Sys2Proof.Machine

theorem exec_ldI (nnn : Addr) (s : State) : exec (.ldI nnn) s = .next (s.setI (zextAddr nnn)).advance := rfl

/-- Settles O35: the 12-bit immediate is zero-extended into I, so I is the same number (30_encoding.md R63), and `setI` and
`advance` leave VF and EXEC as they were. -/
theorem ldILoadsTheImmediate : Obligations.LdILoadsTheImmediate := by
  intro s nnn
  refine ⟨decodeWord_ldI nnn, _, exec_ldI nnn s, ?index, ?pc, ?flag, ?exec⟩
  case index => rw [advance_i, setI_i, zextAddr_toNat]
  case pc => rw [advance_pc, setI_pc]
  case flag => rw [advance_reg, setI_reg]
  case exec => rw [advance_execState, setI_execState]

end Sys2Proof.Machine

/-! The timer tick (O7): what it leaves in each timer, when it pulses STOP_TONE, and what it leaves unchanged. -/

namespace Sys2Proof.Machine

@[simp] theorem tick_dt (s : State) : (tick s).dt = timerDown s.dt := rfl

@[simp] theorem tick_st (s : State) : (tick s).st = timerDown s.st := rfl

@[simp] theorem tick_stopTone (s : State) : (tick s).stopTone = decide (s.st = 1) := rfl

theorem tick_sameExcept (s : State) :
    SameExcept (fun f => f = .delay ∨ f = .sound ∨ f = .stopTone) s (tick s) := by
  intro f hf
  cases f with
  | delay => exact absurd (.inl rfl) hf
  | sound => exact absurd (.inr (.inl rfl)) hf
  | stopTone => exact absurd (.inr (.inr rfl)) hf
  | _ => rfl

/-- A timer saturates at 0 and never wraps to 255 (R152). -/
@[simp] theorem timerDown_zero : timerDown 0 = 0 := rfl

/-- A timer takes its step into 0 from 1 alone. -/
theorem ne_zero_and_timerDown_eq_zero_iff (b : Byte) : b ≠ 0 ∧ timerDown b = 0 ↔ b = 1 := by
  have hdown : timerDown b = 0 ↔ b.toNat - 1 = 0 := by
    rw [← timerDown_toNat, ← BitVec.toNat_inj]
    rfl
  rw [hdown]
  bv_omega

/-- Settles O7: each timer is `timerDown` of itself alone, and the pulse's condition ST = 1 is the step into 0. -/
theorem tickCountsDownAndSaturates : Obligations.TickCountsDownAndSaturates := by
  intro s
  refine ⟨?delayDown, ?delayStays, ?soundDown, ?soundStays, ?pulse, tick_sameExcept s⟩
  case delayDown => exact fun _ => timerDown_toNat s.dt
  case delayStays => intro h; rw [tick_dt, h, timerDown_zero]
  case soundDown => exact fun _ => timerDown_toNat s.st
  case soundStays => intro h; rw [tick_st, h, timerDown_zero]
  case pulse => rw [tick_stopTone, tick_st, decide_eq_true_iff, ne_zero_and_timerDown_eq_zero_iff]

end Sys2Proof.Machine

/-! Program load (O17): the two answers of an admitted LoadProgram, and a replaced memory as a change of bytes alone. -/

namespace Sys2Proof.Machine

/-- A new memory changes no piece of state but the bytes it reads otherwise. -/
theorem setMem_sameExcept {written : Field → Prop} {s : State} {m : Memory}
    (h : ∀ a, ¬ written (.byte a) → m.read a = s.byte a) : SameExcept written s (s.setMem m) := by
  intro f hf
  cases f with
  | byte a => exact (setMem_byte s m a).trans (h a hf)
  | _ => rfl

/-- A range write changes the bytes of its range and nothing else, wherever the range lies. -/
theorem setMem_writeRange_sameExcept (s : State) (base n : Nat) (g : Nat → Byte) :
    SameExcept (fun f => ∃ k, k < n ∧ f = .byte (base + k)) s (s.setMem (s.mem.writeRange base n g)) := by
  apply setMem_sameExcept
  intro a ha
  exact read_writeRange_other s.mem base n g fun k hk hak => ha ⟨k, hk, congrArg Field.byte hak⟩

theorem loadProgram_tooLong {s : State} {rom : List Byte} (hs : s.loadOpen = true)
    (hlen : Config.progMax < rom.length) : loadProgram rom s = .fault .loadCapacityError := by
  rw [loadProgram, if_neg (by simp [hs]), if_pos hlen]

theorem loadProgram_fits {s : State} {rom : List Byte} (hs : s.loadOpen = true)
    (hlen : rom.length ≤ Config.progMax) : loadProgram rom s =
      .next (s.setMem (s.mem.writeRange Config.progBase rom.length fun k => rom.getD k 0)) := by
  rw [loadProgram, if_neg (by simp [hs]), if_neg (Nat.not_lt.mpr hlen)]

/-- An image at 0x200 that is no longer than PROG_MAX ends within memory (R42, R175). -/
theorem progBase_add_le_memSize {n : Nat} (hn : n ≤ Config.progMax) :
    Config.progBase + n ≤ Config.memSize :=
  Nat.add_le_add_left hn Config.progBase

/-- Settles O17: a load that fits is one range write of the image at 0x200, all of it within memory, and a longer image
is the error. -/
theorem loadProgramWritesTheImage : Obligations.LoadProgramWritesTheImage := by
  intro s rom hs
  refine ⟨loadProgram_tooLong hs, fun hlen => ⟨_, loadProgram_fits hs hlen, ?image, ?frame⟩⟩
  case image =>
    intro k hk
    have hread := read_writeRange_same s.mem Config.progBase rom.length (fun j => rom.getD j 0) hk
      (progBase_add_le_memSize hlen)
    exact hread.trans (List.getElem_eq_getD 0).symm
  case frame => exact setMem_writeRange_sameExcept s Config.progBase rom.length _

end Sys2Proof.Machine

/-! The decoder and the encoder (O1, O2, O3, O4): the word of every instruction decodes to it, a decoded word is put together
again from its fields, and the rest are the five patterns of 30_encoding.md R67. -/

namespace Sys2Proof

/-! ### Decoding the word of an instruction -/

@[simp] theorem decodeWord_ret : decodeWord 0x00EE#16 = .ok .ret := by decide

/-- Every family-0 word but the two of CLS and RET is SYS (R69, R70). -/
theorem decodeWord_sys {nnn : Addr} (hcls : nnn ≠ 0x0E0#12) (hret : nnn ≠ 0x0EE#12) :
    decodeWord (0x0#4 ++ nnn) = .ok (.sys nnn) := by
  have hcls' : 0x0#4 ++ nnn ≠ 0x00E0#16 := fun h => hcls ((opNNN_nnn _ _).symm.trans (congrArg opNNN h))
  have hret' : 0x0#4 ++ nnn ≠ 0x00EE#16 := fun h => hret ((opNNN_nnn _ _).symm.trans (congrArg opNNN h))
  simp [decodeWord, decodeFamily0, hcls', hret']

@[simp] theorem decodeWord_call (nnn : Addr) : decodeWord (0x2#4 ++ nnn) = .ok (.call nnn) := by
  simp [decodeWord]

@[simp] theorem decodeWord_seReg (x y : Nibble) : decodeWord (0x5#4 ++ x ++ y ++ 0x0#4) = .ok (.seReg x y) :=
  (decodeWord_family5 x y 0x0).trans (if_pos rfl)

@[simp] theorem decodeWord_orReg (x y : Nibble) : decodeWord (0x8#4 ++ x ++ y ++ 0x1#4) = .ok (.orReg x y) := by
  simp [decodeWord_family8, decodeFamily8]

@[simp] theorem decodeWord_andReg (x y : Nibble) : decodeWord (0x8#4 ++ x ++ y ++ 0x2#4) = .ok (.andReg x y) := by
  simp [decodeWord_family8, decodeFamily8]

@[simp] theorem decodeWord_xorReg (x y : Nibble) : decodeWord (0x8#4 ++ x ++ y ++ 0x3#4) = .ok (.xorReg x y) := by
  simp [decodeWord_family8, decodeFamily8]

@[simp] theorem decodeWord_sneReg (x y : Nibble) : decodeWord (0x9#4 ++ x ++ y ++ 0x0#4) = .ok (.sneReg x y) :=
  (decodeWord_family9 x y 0x0).trans (if_pos rfl)

@[simp] theorem decodeWord_jpV0 (nnn : Addr) : decodeWord (0xB#4 ++ nnn) = .ok (.jpV0 nnn) := by
  simp [decodeWord]

@[simp] theorem decodeWord_rnd (x : Nibble) (nn : Byte) : decodeWord (0xC#4 ++ x ++ nn) = .ok (.rnd x nn) := by
  simp [decodeWord]

@[simp] theorem decodeWord_drw (x y n : Nibble) : decodeWord (0xD#4 ++ x ++ y ++ n) = .ok (.drw x y n) := by
  simp [decodeWord]

/-- Family 0xE is left to the table of its low byte (30_encoding.md R65). -/
theorem decodeWord_familyE (x : Nibble) (nn : Byte) :
    decodeWord (0xE#4 ++ x ++ nn) = decodeFamilyE (0xE#4 ++ x ++ nn) := by
  simp [decodeWord]

/-- Family 0xF is left to the table of its low byte (30_encoding.md R65). -/
theorem decodeWord_familyF (x : Nibble) (nn : Byte) :
    decodeWord (0xF#4 ++ x ++ nn) = decodeFamilyF (0xF#4 ++ x ++ nn) := by
  simp [decodeWord]

/-- The word of a well-formed instruction decodes to it: the fixed words by computation, SYS by what well-formedness leaves it,
and every other one by its family's table. -/
theorem decodeWord_encode {i : Instr} (hi : i.wellFormed = true) : decodeWord (encode i) = .ok i := by
  cases i with
  | cls => exact decodeWord_cls
  | sys nnn =>
    simp only [Instr.wellFormed, Bool.and_eq_true, bne_iff_ne] at hi
    exact decodeWord_sys hi.1 hi.2
  | skp x | sknp x => simp [encode, decodeWord_familyE, decodeFamilyE]
  | ldVxDt x | ldVxK x | ldDtVx x | ldStVx x | addI x | ldF x | ldB x | storeRegs x | loadRegs x =>
    simp [encode, decodeWord_familyF, decodeFamilyF]
  | _ => simp [encode]

/-- Two bytes decode as their word, and the bytes after them are left (R60). -/
theorem decodeBytes_encodeBytes (i : Instr) {j : Instr} (rest : List Byte) (h : decodeWord (encode i) = .ok j) :
    decodeBytes (encodeBytes i ++ rest) = .ok (j, rest) := by
  simp [encodeBytes, decodeBytes, h]

/-- Settles O1: the word by `decodeWord_encode`, and its two bytes put together are the word again (R47). -/
theorem decodeOfEncodeIsTheInstruction : Obligations.DecodeOfEncodeIsTheInstruction := fun i hi =>
  ⟨decodeWord_encode hi, fun rest => decodeBytes_encodeBytes i rest (decodeWord_encode hi)⟩

/-! ### A decoded word is its instruction's word -/

theorem eq_nnn_of_fields {w : Word} {f : Nibble} (hf : opFamily w = f) : f ++ opNNN w = w :=
  hf ▸ word_eq_nnn w

theorem eq_xnn_of_fields {w : Word} {f : Nibble} {nn : Byte} (hf : opFamily w = f) (hnn : opNN w = nn) :
    f ++ opX w ++ nn = w :=
  hf ▸ hnn ▸ word_eq_xnn w

theorem eq_xyn_of_fields {w : Word} {f n : Nibble} (hf : opFamily w = f) (hn : opN w = n) :
    f ++ opX w ++ opY w ++ n = w :=
  hf ▸ hn ▸ word_eq_xyn w

/-- `i` is the well-formed instruction that the word `w` stands for. -/
def Instr.HasWord (i : Instr) (w : Word) : Prop := i.wellFormed = true ∧ encode i = w

theorem hasWord_of_decodeFamily0 {w : Word} {i : Instr} (hf : opFamily w = 0x0#4) (h : decodeFamily0 w = .ok i) :
    i.HasWord w := by
  unfold decodeFamily0 at h
  split_ifs at h with hcls hret
  · cases h; exact ⟨rfl, hcls.symm⟩
  · cases h; exact ⟨rfl, hret.symm⟩
  · cases h
    have hw : 0x0#4 ++ opNNN w = w := eq_nnn_of_fields hf
    have hcls' : opNNN w ≠ 0x0E0#12 := fun e => hcls (by rw [← hw, e]; rfl)
    have hret' : opNNN w ≠ 0x0EE#12 := fun e => hret (by rw [← hw, e]; rfl)
    exact ⟨by simp [Instr.wellFormed, hcls', hret'], hw⟩

theorem hasWord_of_decodeLowNibbleZero {w : Word} {i j : Instr} (h : decodeLowNibbleZero w j = .ok i)
    (hj : opN w = 0x0#4 → j.HasWord w) : i.HasWord w := by
  unfold decodeLowNibbleZero at h
  split_ifs at h with hn
  cases h
  exact hj hn

theorem hasWord_of_decodeFamily8 {w : Word} {i : Instr} (hf : opFamily w = 0x8#4) (h : decodeFamily8 w = .ok i) :
    i.HasWord w := by
  simp only [decodeFamily8] at h
  split_ifs at h with hn hn hn hn hn hn hn hn hn
  all_goals
    cases h
    exact ⟨rfl, eq_xyn_of_fields hf hn⟩

theorem hasWord_of_decodeFamilyE {w : Word} {i : Instr} (hf : opFamily w = 0xE#4) (h : decodeFamilyE w = .ok i) :
    i.HasWord w := by
  unfold decodeFamilyE at h
  split_ifs at h with hnn hnn
  all_goals
    cases h
    exact ⟨rfl, eq_xnn_of_fields hf hnn⟩

theorem hasWord_of_decodeFamilyF {w : Word} {i : Instr} (hf : opFamily w = 0xF#4) (h : decodeFamilyF w = .ok i) :
    i.HasWord w := by
  simp only [decodeFamilyF] at h
  split_ifs at h with hnn hnn hnn hnn hnn hnn hnn hnn hnn
  all_goals
    cases h
    exact ⟨rfl, eq_xnn_of_fields hf hnn⟩

/-- A word that decodes has its instruction's family, and the family's format puts the fields together again. -/
theorem hasWord_of_decodeWord {w : Word} {i : Instr} (h : decodeWord w = .ok i) : i.HasWord w := by
  rcases nibble_cases (opFamily w) with hf | hf | hf | hf | hf | hf | hf | hf | hf | hf | hf | hf | hf | hf | hf | hf <;>
    simp only [decodeWord, hf, BitVec.reduceEq, reduceIte] at h
  · exact hasWord_of_decodeFamily0 hf h
  · cases h; exact ⟨rfl, eq_nnn_of_fields hf⟩
  · cases h; exact ⟨rfl, eq_nnn_of_fields hf⟩
  · cases h; exact ⟨rfl, eq_xnn_of_fields hf rfl⟩
  · cases h; exact ⟨rfl, eq_xnn_of_fields hf rfl⟩
  · exact hasWord_of_decodeLowNibbleZero h fun hn => ⟨rfl, eq_xyn_of_fields hf hn⟩
  · cases h; exact ⟨rfl, eq_xnn_of_fields hf rfl⟩
  · cases h; exact ⟨rfl, eq_xnn_of_fields hf rfl⟩
  · exact hasWord_of_decodeFamily8 hf h
  · exact hasWord_of_decodeLowNibbleZero h fun hn => ⟨rfl, eq_xyn_of_fields hf hn⟩
  · cases h; exact ⟨rfl, eq_nnn_of_fields hf⟩
  · cases h; exact ⟨rfl, eq_nnn_of_fields hf⟩
  · cases h; exact ⟨rfl, eq_xnn_of_fields hf rfl⟩
  · cases h; exact ⟨rfl, eq_xyn_of_fields hf rfl⟩
  · exact hasWord_of_decodeFamilyE hf h
  · exact hasWord_of_decodeFamilyF hf h

/-- Settles O2: no bit of a decoded word is dropped, because the instruction's format is the one the word was read by. -/
theorem encodeOfDecodeIsTheWord : Obligations.EncodeOfDecodeIsTheWord := fun _ _ h => hasWord_of_decodeWord h

/-- One word has one meaning: SYS with the word of CLS or RET apart, an instruction is the one its word decodes to. -/
theorem eq_of_decodeWord_encode {i j : Instr} (hj : j.wellFormed = true) (h : decodeWord (encode j) = .ok i) : i = j := by
  rw [decodeWord_encode hj] at h
  exact (Except.ok.inj h).symm

/-! ### The unrecognised words -/

theorem decodeFamily0_ne_error (w : Word) (e : DecodeError) : decodeFamily0 w ≠ .error e := by
  unfold decodeFamily0
  split_ifs <;> exact nofun

theorem decodeLowNibbleZero_eq_error_iff (w : Word) (i : Instr) (e : DecodeError) :
    decodeLowNibbleZero w i = .error e ↔ e = .unrecognized w ∧ opN w ≠ 0x0#4 := by
  unfold decodeLowNibbleZero
  split_ifs with hn
  · simp [hn]
  · simp [hn, eq_comm]

/-- The low nibbles family 0x8 leaves out are the seven that its table has no row for (R67). -/
theorem decodeFamily8_eq_error_iff (w : Word) (e : DecodeError) :
    decodeFamily8 w = .error e ↔
      e = .unrecognized w ∧ opN w ∈ [0x8#4, 0x9#4, 0xA#4, 0xB#4, 0xC#4, 0xD#4, 0xF#4] := by
  rcases nibble_cases (opN w) with hn | hn | hn | hn | hn | hn | hn | hn | hn | hn | hn | hn | hn | hn | hn | hn <;>
    simp [decodeFamily8, hn, eq_comm]

theorem decodeFamilyE_eq_error_iff (w : Word) (e : DecodeError) :
    decodeFamilyE w = .error e ↔ e = .unrecognized w ∧ opNN w ∉ [0x9E#8, 0xA1#8] := by
  unfold decodeFamilyE
  split_ifs with h1 h2
  · simp [h1]
  · simp [h2]
  · simp [h1, h2, eq_comm]

theorem decodeFamilyF_eq_error_iff (w : Word) (e : DecodeError) :
    decodeFamilyF w = .error e ↔ e = .unrecognized w ∧
      opNN w ∉ [0x07#8, 0x0A#8, 0x15#8, 0x18#8, 0x1E#8, 0x29#8, 0x33#8, 0x55#8, 0x65#8] := by
  simp only [decodeFamilyF]
  split_ifs with h1 h2 h3 h4 h5 h6 h7 h8 h9
  case neg => simp [h1, h2, h3, h4, h5, h6, h7, h8, h9, eq_comm]
  all_goals simp [*]

/-- Settles O3: each family rejects exactly its own pattern, and the eleven families outside the five reject nothing. -/
theorem unrecognisedWordsAreTheFivePatterns : Obligations.UnrecognisedWordsAreTheFivePatterns := by
  intro w e
  rcases nibble_cases (opFamily w) with hf | hf | hf | hf | hf | hf | hf | hf | hf | hf | hf | hf | hf | hf | hf | hf <;>
    simp [decodeWord, hf, decodeFamily0_ne_error, decodeLowNibbleZero_eq_error_iff, decodeFamily8_eq_error_iff,
      decodeFamilyE_eq_error_iff, decodeFamilyF_eq_error_iff]

/-- Settles O4 by running the decoder on each word. -/
theorem wordsOfTheTableDecode : Obligations.WordsOfTheTableDecode := by
  unfold Obligations.WordsOfTheTableDecode
  decide

end Sys2Proof

/-! Frames: what each of the state's operations leaves unchanged, said of any set of written pieces that holds the ones the
operation writes, so that the frames of a sequence of operations compose by `SameExcept.trans`. -/

namespace Sys2Proof.Machine

/-! ### Composition -/

theorem Field.same_trans {s t u : State} {f : Field} (hst : f.same s t) (htu : f.same t u) : f.same s u := by
  cases f <;> exact Eq.trans htu hst

theorem SameExcept.trans {written : Field → Prop} {s t u : State} (hst : SameExcept written s t)
    (htu : SameExcept written t u) : SameExcept written s u :=
  fun f hf => Field.same_trans (hst f hf) (htu f hf)

theorem SameExcept.mono {p q : Field → Prop} {s t : State} (h : SameExcept p s t) (hpq : ∀ f, p f → q f) :
    SameExcept q s t :=
  fun f hf => h f fun hp => hf (hpq f hp)

/-- A piece of state that did change is among the written ones. -/
theorem SameExcept.written_of_not_same {written : Field → Prop} {s t : State} (h : SameExcept written s t) {f : Field}
    (hf : ¬ f.same s t) : written f :=
  by_contra fun hw => hf (h f hw)

/-! ### What a push and a pop that succeed leave -/

section
variable {s t : State} {w : Word}

/-- A push that succeeds is the one `push_cases` describes. -/
theorem push_some (h : s.push w = some t) :
    (∀ k : Nibble, t.stackEntry k = if k.toNat = s.sp.val then w else s.stackEntry k) ∧
      t = { s with stack := t.stack, sp := t.sp } := by
  obtain ⟨-, u, hu, -, hstack, hrest⟩ | ⟨-, hnone⟩ := push_cases s w
  · obtain rfl : t = u := Option.some.inj (h.symm.trans hu)
    exact ⟨hstack, hrest⟩
  · cases h.symm.trans hnone

theorem push_stackEntry (h : s.push w = some t) (k : Nibble) :
    t.stackEntry k = if k.toNat = s.sp.val then w else s.stackEntry k :=
  (push_some h).1 k

theorem push_rest (h : s.push w = some t) : t = { s with stack := t.stack, sp := t.sp } := (push_some h).2

/-- A pop that succeeds is the one `pop_cases` describes. -/
theorem pop_some (h : s.pop = some (w, t)) :
    w = s.stackEntry (BitVec.ofNat 4 (s.sp.val - 1)) ∧ t = { s with sp := t.sp } := by
  obtain ⟨-, u, hu, -, hrest⟩ | ⟨-, hnone⟩ := pop_cases s
  · obtain ⟨rfl, rfl⟩ := Prod.mk.inj (Option.some.inj (h.symm.trans hu))
    exact ⟨rfl, hrest⟩
  · cases h.symm.trans hnone

theorem pop_rest (h : s.pop = some (w, t)) : t = { s with sp := t.sp } := (pop_some h).2

end

/-! ### One frame for each operation -/

section
variable {written : Field → Prop} {s : State}

theorem setReg_sameExcept {k : Nibble} (h : written (.reg k)) (b : Byte) : SameExcept written s (s.setReg k b) := by
  intro f hf
  cases f with
  | reg j => exact setReg_reg_ne s k j b fun hj => hf (hj ▸ h)
  | _ => rfl

theorem setI_sameExcept (h : written .index) (w : Word) : SameExcept written s (s.setI w) := by
  intro f hf
  cases f with
  | index => exact absurd h hf
  | _ => rfl

theorem setPc_sameExcept (h : written .pc) (w : Word) : SameExcept written s (s.setPc w) := by
  intro f hf
  cases f with
  | pc => exact absurd h hf
  | _ => rfl

theorem advance_sameExcept (h : written .pc) : SameExcept written s s.advance := setPc_sameExcept h _

theorem skipIf_sameExcept (h : written .pc) (c : Bool) : SameExcept written s (s.skipIf c) := setPc_sameExcept h _

theorem setDt_sameExcept (h : written .delay) (b : Byte) : SameExcept written s (s.setDt b) := by
  intro f hf
  cases f with
  | delay => exact absurd h hf
  | _ => rfl

theorem setSt_sameExcept (h : written .sound) (b : Byte) : SameExcept written s (s.setSt b) := by
  intro f hf
  cases f with
  | sound => exact absurd h hf
  | _ => rfl

theorem setExec_sameExcept (h : written .execState) (e : Exec) : SameExcept written s (s.setExec e) := by
  intro f hf
  cases f with
  | execState => exact absurd h hf
  | _ => rfl

theorem setDisplay_sameExcept (hpixel : ∀ c r, written (.pixel c r)) (hdirty : written .dirty) (fb : Framebuffer) :
    SameExcept written s (s.setDisplay fb) := by
  intro f hf
  cases f with
  | pixel c r => exact absurd (hpixel c r) hf
  | dirty => exact absurd hdirty hf
  | _ => rfl

theorem raise_sameExcept (hexec : written .execState) (hfault : written .fault) (c : FaultCode) (n : BitVec 17) (op : Word) :
    SameExcept written s (s.raise c n op) := by
  intro f hf
  cases f with
  | execState => exact absurd hexec hf
  | fault => exact absurd hfault hf
  | _ => rfl

theorem setResultFlag_sameExcept {x : Nibble} (hx : written (.reg x)) (hvf : written (.reg vf)) (b : Byte) (c : Bool) :
    SameExcept written s (s.setResultFlag x b c) :=
  (setReg_sameExcept hx b).trans (setReg_sameExcept hvf _)

theorem regNumber_toNat {n : Nat} (hn : n < 16) : (regNumber n).toNat = n :=
  Nat.mod_eq_of_lt hn

theorem loadRange_sameExcept {n : Nat} (hn : n ≤ 16) (h : ∀ k : Nibble, k.toNat < n → written (.reg k)) :
    SameExcept written s (s.loadRange n) := by
  induction n with
  | zero => exact fun f _ => by cases f <;> rfl
  | succ n ih =>
    rw [loadRange_succ]
    have hlast : (regNumber n).toNat < n + 1 := (regNumber_toNat (by omega)).trans_lt n.lt_succ_self
    exact (ih (by omega) fun k hk => h k (Nat.lt_succ_of_lt hk)).trans (setReg_sameExcept (h _ hlast) _)

theorem push_sameExcept {w : Word} {t : State} (h : s.push w = some t) (hsp : written .sp)
    (hentry : written (.stackEntry (BitVec.ofNat 4 s.sp.val))) : SameExcept written s t := by
  intro f hf
  cases f with
  | stackEntry k =>
    have hk : k.toNat ≠ s.sp.val := by
      intro hk
      rw [← hk, BitVec.ofNat_toNat, BitVec.setWidth_eq] at hentry
      exact hf hentry
    exact (push_stackEntry h k).trans (if_neg hk)
  | sp => exact absurd hsp hf
  | _ => rw [push_rest h]; rfl

theorem pop_sameExcept {w : Word} {t : State} (h : s.pop = some (w, t)) (hsp : written .sp) : SameExcept written s t := by
  intro f hf
  cases f with
  | sp => exact absurd hsp hf
  | _ => rw [pop_rest h]; rfl

end

/-- An instruction has one next state. -/
theorem exec_next_unique {i : Instr} {s t u : State} (ht : exec i s = .next t) (hu : exec i s = .next u) : t = u :=
  Host.Outcome.next.inj (ht.symm.trans hu)

end Sys2Proof.Machine

/-! What the instructions do by the state's operations: the equations of `exec` that the parts above leave out, and the statements
about the single instructions (O27, O28, O29, O32, O36, O37, O40, O41, O42, O44). -/

namespace Sys2Proof.Machine

/-! ### Family 0 and the stack -/

theorem exec_sys (nnn : Addr) (s : State) : exec (.sys nnn) s = .next s.advance := rfl

theorem exec_call_of_push {nnn : Addr} {s t : State} (h : s.push (s.pc + 2) = some t) :
    exec (.call nnn) s = .next (t.setPc (zextAddr nnn)) := by
  simp only [exec, execCall, h]

theorem exec_call_of_full {nnn : Addr} {s : State} (h : s.push (s.pc + 2) = none) :
    exec (.call nnn) s = .next (s.raise .stackOverflow 0 (encode (.call nnn))) := by
  simp only [exec, execCall, h]

theorem exec_ret_of_pop {s t : State} {w : Word} (h : s.pop = some (w, t)) : exec .ret s = .next (t.setPc w) := by
  simp only [exec, execRet, h]

theorem exec_ret_of_empty {s : State} (h : s.pop = none) :
    exec .ret s = .next (s.raise .stackUnderflow 0 (encode .ret)) := by
  simp only [exec, execRet, h]

/-- Settles O27: CALL is one push and one jump, and a push that finds no room is the halt. -/
theorem callPushesAndJumps : Obligations.CallPushesAndJumps := by
  intro s nnn
  obtain ⟨hroom, t, hpush, hsp, hstack, -⟩ | ⟨hfull, hnone⟩ := push_cases s (s.pc + 2)
  · refine ⟨fun _ => ⟨_, exec_call_of_push hpush, zextAddr_toNat nnn, hsp, ?entry, ?frame⟩, fun h => by omega⟩
    case entry =>
      rw [setPc_stackEntry, hstack, if_pos]
      exact Nat.mod_eq_of_lt hroom
    case frame =>
      exact (push_sameExcept hpush (.inr (.inl rfl)) (.inr (.inr rfl))).trans (setPc_sameExcept (.inl rfl) _)
  · refine ⟨fun h => by omega, fun _ => ⟨_, exec_call_of_full hnone, rfl, rfl, ?frame⟩⟩
    case frame => exact raise_sameExcept (.inl rfl) (.inr rfl) _ _ _

/-- Settles O28: RET is one pop and one jump, and a pop that finds no entry is the halt. -/
theorem retPopsAndResumes : Obligations.RetPopsAndResumes := by
  intro s
  obtain ⟨hentry, t, hpop, hsp, -⟩ | ⟨hempty, hnone⟩ := pop_cases s
  · refine ⟨fun _ => ⟨_, exec_ret_of_pop hpop, hsp, rfl, ?frame⟩, fun h => by omega⟩
    case frame => exact (pop_sameExcept hpop (.inr rfl)).trans (setPc_sameExcept (.inl rfl) _)
  · refine ⟨fun h => by omega, fun _ => ⟨_, exec_ret_of_empty hnone, rfl, rfl, ?frame⟩⟩
    case frame => exact raise_sameExcept (.inl rfl) (.inr rfl) _ _ _

/-- Settles O29: the entry that RET pops is the one that CALL pushed, by what CALL (O27) and RET (O28) do to SP. -/
theorem retAfterCallResumesAfterTheCall : Obligations.RetAfterCallResumesAfterTheCall := by
  intro s t u nnn hroom hcall husp hustack
  obtain ⟨t', ht', -, hsp, hentry, -⟩ := (callPushesAndJumps s nnn).1 hroom
  obtain rfl := exec_next_unique hcall ht'
  have hu : u.sp.val = s.sp.val + 1 := husp ▸ hsp
  obtain ⟨v, hv, hvsp, hvpc, -⟩ := (retPopsAndResumes u).1 (by omega)
  refine ⟨v, hv, ?pc, Fin.ext (by omega)⟩
  case pc => rw [hvpc, hu, Nat.add_sub_cancel, hustack, hentry]

/-! ### Registers -/

theorem exec_orReg (x y : Nibble) (s : State) :
    exec (.orReg x y) s = .next (s.setReg x (s.reg x ||| s.reg y)).advance := rfl

theorem exec_andReg (x y : Nibble) (s : State) :
    exec (.andReg x y) s = .next (s.setReg x (s.reg x &&& s.reg y)).advance := rfl

theorem exec_xorReg (x y : Nibble) (s : State) :
    exec (.xorReg x y) s = .next (s.setReg x (s.reg x ^^^ s.reg y)).advance := rfl

theorem exec_rnd (x : Nibble) (nn : Byte) (s : State) :
    exec (.rnd x nn) s = .next (s.setReg x (s.input.rand &&& nn)).advance := rfl

theorem exec_ldVxDt (x : Nibble) (s : State) : exec (.ldVxDt x) s = .next (s.setReg x s.dt).advance := rfl

theorem setReg_advance_sameExcept (s : State) (x : Nibble) (b : Byte) :
    SameExcept (fun f => f = .reg x ∨ f = .pc) s (s.setReg x b).advance :=
  (setReg_sameExcept (.inl rfl) b).trans (advance_sameExcept (.inr rfl))

/-- The frame of an instruction whose whole effect is to write `b` to V[x] and advance. -/
theorem exec_setReg_frame {i : Instr} {s : State} {x : Nibble} {b : Byte}
    (he : exec i s = .next (s.setReg x b).advance) :
    ∃ t, exec i s = .next t ∧ t.reg x = b ∧ t.pc = s.pc + 2 ∧ SameExcept (fun f => f = .reg x ∨ f = .pc) s t :=
  ⟨_, he, setReg_reg_same s x b, rfl, setReg_advance_sameExcept s x b⟩

/-- Settles O32: each of the three writes one byte to V[x] and advances. -/
theorem logicWritesOnlyItsDestination : Obligations.LogicWritesOnlyItsDestination := by
  rintro s x y i b (⟨rfl, rfl⟩ | ⟨rfl, rfl⟩ | ⟨rfl, rfl⟩)
  · exact exec_setReg_frame (exec_orReg x y s)
  · exact exec_setReg_frame (exec_andReg x y s)
  · exact exec_setReg_frame (exec_xorReg x y s)

/-- Settles O37: the byte written is this cycle's RAND masked, which is the host's where the host presents one. -/
theorem rndMasksTheRandomByte : Obligations.RndMasksTheRandomByte := by
  intro s x nn
  obtain ⟨t, he, hreg, hpc, hframe⟩ := exec_setReg_frame (exec_rnd x nn s)
  refine ⟨t, he, hreg, hpc, hframe, ?presented⟩
  case presented =>
    intro c rest hc
    rw [hreg, State.input, hc, List.headD_cons]

/-! ### The indexed jump and the index -/

@[simp] theorem zextByte_toNat (b : Byte) : (zextByte b).toNat = b.toNat :=
  BitVec.toNat_setWidth_of_le (by decide)

theorem exec_jpV0 (nnn : Addr) (s : State) :
    exec (.jpV0 nnn) s = .next (s.setPc (zextByte (s.reg 0) + zextAddr nnn)) := rfl

/-- The sum of a byte and a 12-bit address is at most 0x10FE, so it never wraps (R23, R112). -/
theorem zextByte_add_zextAddr_toNat (b : Byte) (nnn : Addr) :
    (zextByte b + zextAddr nnn).toNat = b.toNat + nnn.toNat := by
  rw [BitVec.toNat_add, zextByte_toNat, zextAddr_toNat]
  omega

/-- Settles O36: the two zero-extended operands add without a wrap, and from 0x0FFF upward no whole word lies in memory. -/
theorem jpV0AddsV0 : Obligations.JpV0AddsV0 := by
  intro s nnn
  refine ⟨decodeWord_jpV0 nnn, _, exec_jpV0 nnn s, zextByte_add_zextAddr_toNat _ _, setPc_reg s _ _, setPc_execState s _,
    fun hpc => fetchWord_none ?noWord⟩
  case noWord => exact Nat.succ_le_succ hpc

theorem exec_addI (x : Nibble) (s : State) :
    exec (.addI x) s = .next (s.setI (s.i + zextByte (s.reg x))).advance := rfl

theorem exec_ldF (x : Nibble) (s : State) : exec (.ldF x) s = .next (s.setI (fontAddr (s.reg x))).advance := rfl

theorem setI_advance_sameExcept (s : State) (w : Word) :
    SameExcept (fun f => f = .index ∨ f = .pc) s (s.setI w).advance :=
  (setI_sameExcept (.inl rfl) w).trans (advance_sameExcept (.inr rfl))

/-- A glyph's address is at most 0x54B, so it never wraps (R127). -/
theorem fontAddr_toNat (b : Byte) : (fontAddr b).toNat = 0x050 + 5 * b.toNat := by
  rw [fontAddr, BitVec.toNat_ofNat]
  exact Nat.mod_eq_of_lt (by unfold fontBase glyphBytes; omega)

/-- Settles O44: both instructions write I and advance; the sum is taken modulo 65536 and the glyph's address is exact. -/
theorem indexArithmetic : Obligations.IndexArithmetic := by
  intro s x
  refine ⟨⟨_, exec_addI x s, ?sum, rfl, setI_advance_sameExcept s _⟩,
    ⟨_, exec_ldF x s, fontAddr_toNat _, rfl, setI_advance_sameExcept s _⟩⟩
  case sum => rw [advance_i, setI_i, BitVec.toNat_add, zextByte_toNat]

/-! ### Keys -/

theorem keyIndex_eq_some {b : Byte} {k : Nibble} (h : b.toNat = k.toNat) : keyIndex b = some k := by
  obtain ⟨-, hsome, hwidth⟩ | ⟨habove, -⟩ := keyIndex_cases b
  · rw [hsome, BitVec.eq_of_toNat_eq (hwidth.trans h)]
  · omega

theorem keyIndex_eq_none {b : Byte} (h : 15 < b.toNat) : keyIndex b = none := by
  obtain ⟨hle, -⟩ | ⟨-, hnone⟩ := keyIndex_cases b
  · omega
  · exact hnone

theorem exec_skp_of_key {x k : Nibble} {s : State} (h : keyIndex (s.reg x) = some k) :
    exec (.skp x) s = .next (s.skipIf (s.keyDown k)) := by
  simp only [exec, execSkp, h]

theorem exec_skp_of_noKey {x : Nibble} {s : State} (h : keyIndex (s.reg x) = none) :
    exec (.skp x) s = .next (s.raise .keyIndexOutOfRange ((s.reg x).setWidth 17) (encode (.skp x))) := by
  simp only [exec, execSkp, h]

theorem exec_sknp_of_key {x k : Nibble} {s : State} (h : keyIndex (s.reg x) = some k) :
    exec (.sknp x) s = .next (s.skipIf (!s.keyDown k)) := by
  simp only [exec, execSknp, h]

theorem exec_sknp_of_noKey {x : Nibble} {s : State} (h : keyIndex (s.reg x) = none) :
    exec (.sknp x) s = .next (s.raise .keyIndexOutOfRange ((s.reg x).setWidth 17) (encode (.sknp x))) := by
  simp only [exec, execSknp, h]

/-- Settles O40: with a key number in V[x] both are `skipIf` on that key's sampled bit, EXA1 on its negation. -/
theorem keySkipsTestTheKey : Obligations.KeySkipsTestTheKey := by
  intro s x k hk
  have hkey : keyIndex (s.reg x) = some k := keyIndex_eq_some hk
  refine ⟨⟨_, exec_skp_of_key hkey, rfl, skipIf_sameExcept (by rfl) _⟩,
    ⟨_, exec_sknp_of_key hkey, ?released, skipIf_sameExcept (by rfl) _⟩⟩
  case released =>
    rw [skipIf_pc, State.keyDown]
    cases s.input.keys.getLsbD k.toNat <;> rfl

/-- The `info` of a key fault is V[x] itself (R141). -/
theorem keyInfo_toNat (b : Byte) : (b.setWidth 17).toNat = b.toNat :=
  BitVec.toNat_setWidth_of_le (by decide)

/-- Settles O41: above 15 there is no key index, and both raise the fault with V[x] as its info. -/
theorem keySkipsHaltAboveKeyF : Obligations.KeySkipsHaltAboveKeyF := by
  intro s x hx
  have hkey : keyIndex (s.reg x) = none := keyIndex_eq_none hx
  exact ⟨⟨_, exec_skp_of_noKey hkey, rfl, rfl, rfl, rfl, keyInfo_toNat _, raise_sameExcept (.inl rfl) (.inr rfl) _ _ _⟩,
    ⟨_, exec_sknp_of_noKey hkey, rfl, rfl, rfl, rfl, keyInfo_toNat _, raise_sameExcept (.inl rfl) (.inr rfl) _ _ _⟩⟩

@[simp] theorem keyByte_toNat (k : Nibble) : (keyByte k).toNat = k.toNat :=
  BitVec.toNat_setWidth_of_le (by decide)

theorem keyWaitStart_of_event {x k : Nibble} {s : State} (h : s.input.event = some k) :
    keyWaitStart x s = (s.setReg x (keyByte k)).advance := by
  simp only [keyWaitStart, h]

theorem keyWaitStart_of_none {x : Nibble} {s : State} (h : s.input.event = none) :
    keyWaitStart x s = s.setExec (.waitKey x) := by
  simp only [keyWaitStart, h]

theorem exec_ldVxK_of_event {x k : Nibble} {s : State} (h : s.input.event = some k) :
    exec (.ldVxK x) s = .next (s.setReg x (keyByte k)).advance :=
  congrArg Host.Outcome.next (keyWaitStart_of_event h)

theorem exec_ldVxK_of_none {x : Nibble} {s : State} (h : s.input.event = none) :
    exec (.ldVxK x) s = .next (s.setExec (.waitKey x)) :=
  congrArg Host.Outcome.next (keyWaitStart_of_none h)

/-- Settles O42: the event alone decides between the write of V[x] and the wait; the keys' levels are not read. -/
theorem ldVxKTakesAKeyPress : Obligations.LdVxKTakesAKeyPress := by
  intro s x
  refine ⟨fun k hk => ?pressed, fun hnone => ⟨_, exec_ldVxK_of_none hnone, rfl, setExec_sameExcept (by rfl) _⟩⟩
  case pressed =>
    obtain ⟨t, he, hreg, hpc, hframe⟩ := exec_setReg_frame (exec_ldVxK_of_event hk)
    exact ⟨t, he, hreg ▸ keyByte_toNat k, hpc, hframe⟩

end Sys2Proof.Machine

/-! The memory transfers (O45 to O51): DXYN, FX33, FX55 and FX65 as checked accesses to the bytes at I, the digits FX33 stores,
and loads and fetches of what was stored. -/

namespace Sys2Proof.Machine

/-! ### Checked accesses -/

theorem exec_drw (x y n : Nibble) (s : State) : exec (.drw x y n) s =
    .next (s.withCheckedAddrs n.toNat (encode (.drw x y n)) (drawEffect x y n s)) := rfl

theorem exec_ldB (x : Nibble) (s : State) : exec (.ldB x) s = .next (s.withCheckedAddrs 3 (encode (.ldB x))
    (s.setMem (s.mem.writeRange s.i.toNat 3 (bcdDigit (s.reg x)))).advance) := rfl

theorem exec_storeRegs (x : Nibble) (s : State) : exec (.storeRegs x) s =
    .next (s.withCheckedAddrs (x.toNat + 1) (encode (.storeRegs x))
      (s.setMem (s.mem.writeRange s.i.toNat (x.toNat + 1) fun k => s.reg (regNumber k))).advance) := rfl

theorem exec_loadRegs (x : Nibble) (s : State) : exec (.loadRegs x) s =
    .next (s.withCheckedAddrs (x.toNat + 1) (encode (.loadRegs x)) (s.loadRange (x.toNat + 1)).advance) := rfl

theorem withCheckedAddrs_of_inMemory {s : State} {n : Nat} (h : s.inMemory n) (op : Word) (e : State) :
    s.withCheckedAddrs n op e = e := by
  obtain ⟨-, heq⟩ | ⟨hout, -⟩ := withCheckedAddrs_cases s e n op
  · exact heq
  · exact absurd h hout

theorem withCheckedAddrs_of_not_inMemory {s : State} {n : Nat} (h : ¬ s.inMemory n) (op : Word) (e : State) :
    ∃ k, k < n ∧ Config.memSize ≤ s.i.toNat + k ∧ (∀ j, j < k → s.i.toNat + j < Config.memSize) ∧
      s.withCheckedAddrs n op e = s.raise .memoryOutOfBounds (BitVec.ofNat 17 (s.i.toNat + k)) op := by
  obtain ⟨hin, -⟩ | ⟨-, hout⟩ := withCheckedAddrs_cases s e n op
  · exact absurd hin h
  · exact hout

/-- The effect of a transfer whose bytes lie in memory. -/
theorem exec_transfer_of_inMemory {i : Instr} {s e : State} {n : Nat} {op : Word}
    (he : exec i s = .next (s.withCheckedAddrs n op e)) (h : s.inMemory n) : exec i s = .next e := by
  rw [he, withCheckedAddrs_of_inMemory h]

/-- A transfer moves at most 16 bytes, so an offending address fits the 17 bits of `info` (R31). -/
theorem memoryInfo_toNat {s : State} {k : Nat} (hk : k < 16) :
    (BitVec.ofNat 17 (s.i.toNat + k)).toNat = s.i.toNat + k := by
  rw [BitVec.toNat_ofNat]
  exact Nat.mod_eq_of_lt (by omega)

/-- A transfer of at most 16 bytes that do not all lie in memory halts with the lowest address outside it. -/
theorem exec_transfer_halts {i : Instr} {s e : State} {n : Nat}
    (he : exec i s = .next (s.withCheckedAddrs n (encode i) e)) (hn : n ≤ 16) (h : ¬ s.inMemory n) :
    ∃ t, exec i s = .next t ∧ t.execState = .halt ∧ t.fault.code = .memoryOutOfBounds ∧ t.fault.pc = s.pc ∧
      t.fault.opcode = encode i ∧
      (∃ a k, t.fault.info.toNat = a ∧ a = s.i.toNat + k ∧ k < n ∧ 4096 ≤ a ∧ ∀ j, j < k → s.i.toNat + j < 4096) ∧
      SameExcept (fun f => f = .execState ∨ f = .fault) s t := by
  obtain ⟨k, hk, hge, hlow, hraise⟩ := withCheckedAddrs_of_not_inMemory h (encode i) e
  refine ⟨_, he.trans (congrArg _ hraise), rfl, rfl, rfl, rfl, ?lowest, raise_sameExcept (.inl rfl) (.inr rfl) _ _ _⟩
  case lowest => exact ⟨_, k, memoryInfo_toNat (by omega), rfl, hk, hge, hlow⟩

/-- Settles O48: each of the four forms is one checked access, of the length that the statement gives it. -/
theorem transfersOutsideMemoryHalt : Obligations.TransfersOutsideMemoryHalt := by
  rintro s i n (⟨x, y, m, rfl, rfl⟩ | ⟨x, rfl, rfl⟩ | ⟨x, rfl | rfl, rfl⟩) hout
  · exact exec_transfer_halts (exec_drw x y m s) (by omega) hout
  · exact exec_transfer_halts (exec_ldB x s) (by decide) hout
  · exact exec_transfer_halts (exec_storeRegs x s) (by omega) hout
  · exact exec_transfer_halts (exec_loadRegs x s) (by omega) hout

/-! ### Stores -/

/-- At least one byte in memory is a plain bound on I. -/
theorem inMemory_iff_of_pos {s : State} {n : Nat} (hn : 0 < n) : s.inMemory n ↔ s.i.toNat + n ≤ Config.memSize :=
  or_iff_right hn.ne'

/-- A range write at I followed by the advance: every byte reads as written. -/
theorem byte_store {s : State} {n k : Nat} (hin : s.inMemory n) (hk : k < n) (g : Nat → Byte) :
    (s.setMem (s.mem.writeRange s.i.toNat n g)).advance.byte (s.i.toNat + k) = g k :=
  read_writeRange_same s.mem s.i.toNat n g hk ((inMemory_iff_of_pos (by omega)).1 hin)

theorem store_sameExcept {written : Field → Prop} {s : State} {n : Nat} (hpc : written .pc)
    (hbyte : ∀ k, k < n → written (.byte (s.i.toNat + k))) (g : Nat → Byte) :
    SameExcept written s (s.setMem (s.mem.writeRange s.i.toNat n g)).advance := by
  refine ((setMem_writeRange_sameExcept s s.i.toNat n g).mono ?range).trans (advance_sameExcept hpc)
  case range =>
    rintro f ⟨k, hk, rfl⟩
    exact hbyte k hk

theorem bcdDigit_zero_toNat (b : Byte) : (bcdDigit b 0).toNat = b.toNat / 100 :=
  Nat.mod_eq_of_lt (by omega)

theorem bcdDigit_one_toNat (b : Byte) : (bcdDigit b 1).toNat = b.toNat / 10 % 10 :=
  Nat.mod_eq_of_lt (by omega)

theorem bcdDigit_two_toNat (b : Byte) : (bcdDigit b 2).toNat = b.toNat % 10 :=
  Nat.mod_eq_of_lt (by omega)

/-- Settles O45: the three digits are one range write at I, each below 256 and so stored exactly. -/
theorem ldBStoresTheDecimalDigits : Obligations.LdBStoresTheDecimalDigits := by
  intro s x hin
  refine ⟨_, exec_transfer_of_inMemory (exec_ldB x s) hin, ?hundreds, ?tens, ?ones, rfl,
    store_sameExcept (.inl rfl) (fun k hk => .inr ⟨k, hk, rfl⟩) _⟩
  case hundreds => exact (congrArg _ (byte_store (k := 0) hin (by decide) _)).trans (bcdDigit_zero_toNat _)
  case tens => exact (congrArg _ (byte_store (k := 1) hin (by decide) _)).trans (bcdDigit_one_toNat _)
  case ones => exact (congrArg _ (byte_store (k := 2) hin (by decide) _)).trans (bcdDigit_two_toNat _)

/-- The k-th register of a transfer, for a register number. -/
theorem regNumber_toNat_eq (k : Nibble) : regNumber k.toNat = k := by
  rw [regNumber, BitVec.ofNat_toNat, BitVec.setWidth_eq]

/-- Settles O46: the registers are one range write at I, whose k-th byte is V[k]. -/
theorem storeRegsStoresV0ToVx : Obligations.StoreRegsStoresV0ToVx := by
  intro s x hin
  refine ⟨_, exec_transfer_of_inMemory (exec_storeRegs x s) hin, ?stored, rfl,
    store_sameExcept (.inl rfl) (fun k hk => .inr ⟨k, Nat.le_of_lt_succ hk, rfl⟩) _⟩
  case stored =>
    intro k hk
    rw [byte_store hin (Nat.lt_succ_of_le hk), regNumber_toNat_eq]

/-! ### Loads, and loads of what was stored -/

section
variable (s : State) (n : Nat)

@[simp] theorem loadRange_pc : (s.loadRange n).pc = s.pc := by rw [loadRange_rest]

@[simp] theorem loadRange_execState : (s.loadRange n).execState = s.execState := by rw [loadRange_rest]

@[simp] theorem loadRange_fault : (s.loadRange n).fault = s.fault := by rw [loadRange_rest]

@[simp] theorem loadRange_mem : (s.loadRange n).mem = s.mem := by rw [loadRange_rest]

@[simp] theorem loadRange_stackEntry (k : Nibble) : (s.loadRange n).stackEntry k = s.stackEntry k := by
  rw [loadRange_rest]; rfl

end

/-- Settles O47: `loadRange` gives V[k] the byte at I + k and changes registers alone. -/
theorem loadRegsLoadsV0ToVx : Obligations.LoadRegsLoadsV0ToVx := by
  intro s x hin
  refine ⟨_, exec_transfer_of_inMemory (exec_loadRegs x s) hin, ?loaded, ?pc, ?frame⟩
  case loaded =>
    intro k hk
    rw [advance_reg, loadRange_reg s (by omega), if_pos (Nat.lt_succ_of_le hk)]
  case pc => rw [advance_pc, loadRange_pc]
  case frame =>
    exact (loadRange_sameExcept (by omega) fun k hk => .inr ⟨k, Nat.le_of_lt_succ hk, rfl⟩).trans
      (advance_sameExcept (.inl rfl))

theorem inMemory_congr {s t : State} (h : t.i = s.i) (n : Nat) : t.inMemory n ↔ s.inMemory n := by
  rw [State.inMemory, State.inMemory, h]

/-- A frame that leaves I alone keeps I. -/
theorem SameExcept.i_eq {written : Field → Prop} {s t : State} (h : SameExcept written s t) (hi : ¬ written .index) :
    t.i = s.i :=
  h .index hi

/-- Settles O49: FX33 (O45) leaves I alone, so FX65 (O47) reads the three digits back, and they make up the value. -/
theorem digitsStoredAndLoadedMakeUpTheValue : Obligations.DigitsStoredAndLoadedMakeUpTheValue := by
  intro s x hin
  obtain ⟨t, ht, hhundreds, htens, hones, -, hframe⟩ := ldBStoresTheDecimalDigits s x hin
  have hi : t.i = s.i := hframe.i_eq (by simp)
  obtain ⟨u, hu, hload, -⟩ := loadRegsLoadsV0ToVx t 2 ((inMemory_congr hi 3).2 hin)
  have h0 : (u.reg 0).toNat = (s.reg x).toNat / 100 := by rw [hload 0 (by decide), hi]; exact hhundreds
  have h1 : (u.reg 1).toNat = (s.reg x).toNat / 10 % 10 := by rw [hload 1 (by decide), hi]; exact htens
  have h2 : (u.reg 2).toNat = (s.reg x).toNat % 10 := by rw [hload 2 (by decide), hi]; exact hones
  exact ⟨t, u, ht, hu, by omega, by omega, by omega⟩

/-- Settles O50: FX55 (O46) leaves I alone, so FX65 (O47) reads the stored bytes at the same addresses. -/
theorem storedRegistersLoadBack : Obligations.StoredRegistersLoadBack := by
  intro s t u x hin hstore hui hbytes
  obtain ⟨t', ht', hstored, -, hframe⟩ := storeRegsStoresV0ToVx s x hin
  obtain rfl := exec_next_unique hstore ht'
  have hti : t.i = s.i := hframe.i_eq (by simp)
  obtain ⟨v, hv, hload, -⟩ := loadRegsLoadsV0ToVx u x ((inMemory_congr (hui.trans hti) _).2 hin)
  refine ⟨v, hv, fun k hk => ?_⟩
  rw [hload k hk, hui, hbytes k.toNat hk, hti, hstored k hk]

/-- Settles O51: PC advances to I, where FX55 (O46) has just stored V0 and V1, and a fetch joins them in that order (R47). -/
theorem storedBytesAreFetchedNext : Obligations.StoredBytesAreFetchedNext := by
  intro s x hx hin hi
  obtain ⟨t, ht, hstored, hpc, -⟩ := storeRegsStoresV0ToVx s x hin
  have htpc : t.pc.toNat = s.i.toNat := by rw [hpc, hi]
  have hroom : s.i.toNat + (x.toNat + 1) ≤ Config.memSize := (inMemory_iff_of_pos (by omega)).1 hin
  have hV0 : t.byte s.i.toNat = s.reg 0 := hstored 0 (Nat.zero_le _)
  have hV1 : t.byte (s.i.toNat + 1) = s.reg 1 := hstored 1 hx
  refine ⟨t, ht, ?_⟩
  rw [fetchWord_some (by omega), htpc, hV0, hV1]

end Sys2Proof.Machine

/-! The cycle around an instruction (O5, O6, O8, O9, O10, O11, O18, O25, O43): the end of a cycle in and out of HALT, and a step
in each state of EXEC. -/

namespace Sys2Proof.Machine

/-! ### The end of a cycle -/

theorem completeCycle_of_halt (d : Option Diag) {s : State} (h : s.execState = .halt) :
    completeCycle d s = endCycle d (withoutTick s) := by
  rw [completeCycle, if_pos h]

theorem completeCycle_of_not_halt (d : Option Diag) {s : State} (h : s.execState ≠ .halt) :
    completeCycle d s = endCycle d (tick s) := by
  rw [completeCycle, if_neg h]

theorem endCycle_sameExcept {written : Field → Prop} (h : ∀ f, f.ofInterface → written f) (d : Option Diag) (s : State) :
    SameExcept written s (endCycle d s) := by
  intro f hf
  cases f with
  | diag => exact absurd (h .diag trivial) hf
  | inputs => exact absurd (h .inputs trivial) hf
  | cycle => exact absurd (h .cycle trivial) hf
  | loadOpen => exact absurd (h .loadOpen trivial) hf
  | _ => rfl

theorem withoutTick_sameExcept {written : Field → Prop} (h : written .stopTone) (s : State) :
    SameExcept written s (withoutTick s) := by
  intro f hf
  cases f with
  | stopTone => exact absurd h hf
  | _ => rfl

/-- In HALT the end of a cycle moves the interface alone (R144). -/
theorem completeCycle_sameExcept_of_halt {written : Field → Prop} (h : ∀ f, f.ofInterface → written f) (d : Option Diag)
    {s : State} (hs : s.execState = .halt) : SameExcept written s (completeCycle d s) := by
  rw [completeCycle_of_halt d hs]
  exact (withoutTick_sameExcept (h _ trivial) s).trans (endCycle_sameExcept h d _)

/-- The end of a cycle moves the timers and the interface alone. -/
theorem completeCycle_sameExcept {written : Field → Prop} (hdelay : written .delay) (hsound : written .sound)
    (h : ∀ f, f.ofInterface → written f) (d : Option Diag) (s : State) : SameExcept written s (completeCycle d s) := by
  by_cases hs : s.execState = .halt
  · exact completeCycle_sameExcept_of_halt h d hs
  · rw [completeCycle_of_not_halt d hs]
    refine ((tick_sameExcept s).mono ?ticked).trans (endCycle_sameExcept h d _)
    case ticked =>
      rintro f (rfl | rfl | rfl)
      · exact hdelay
      · exact hsound
      · exact h _ trivial

@[simp] theorem completeCycle_diag (d : Option Diag) (s : State) : (completeCycle d s).diag = d := rfl

@[simp] theorem completeCycle_loadOpen (d : Option Diag) (s : State) : (completeCycle d s).loadOpen = false := rfl

@[simp] theorem completeCycle_inputs (d : Option Diag) (s : State) : (completeCycle d s).inputs = s.inputs.tail := by
  unfold completeCycle; split <;> rfl

@[simp] theorem completeCycle_cycle (d : Option Diag) (s : State) : (completeCycle d s).cycle = s.cycle + 1 := by
  unfold completeCycle; split <;> rfl

@[simp] theorem completeCycle_pc (d : Option Diag) (s : State) : (completeCycle d s).pc = s.pc := by
  unfold completeCycle; split <;> rfl

@[simp] theorem completeCycle_fault (d : Option Diag) (s : State) : (completeCycle d s).fault = s.fault := by
  unfold completeCycle; split <;> rfl

@[simp] theorem completeCycle_mem (d : Option Diag) (s : State) : (completeCycle d s).mem = s.mem := by
  unfold completeCycle; split <;> rfl

@[simp] theorem completeCycle_reg (d : Option Diag) (s : State) (k : Nibble) : (completeCycle d s).reg k = s.reg k := by
  unfold completeCycle; split <;> rfl

@[simp] theorem completeCycle_stackEntry (d : Option Diag) (s : State) (k : Nibble) :
    (completeCycle d s).stackEntry k = s.stackEntry k := by
  unfold completeCycle; split <;> rfl

section
variable {s : State} (d : Option Diag)

theorem completeCycle_dt_of_halt (h : s.execState = .halt) : (completeCycle d s).dt = s.dt := by
  rw [completeCycle_of_halt d h]; rfl

theorem completeCycle_st_of_halt (h : s.execState = .halt) : (completeCycle d s).st = s.st := by
  rw [completeCycle_of_halt d h]; rfl

theorem completeCycle_stopTone_of_halt (h : s.execState = .halt) : (completeCycle d s).stopTone = false := by
  rw [completeCycle_of_halt d h]; rfl

theorem completeCycle_dt_of_not_halt (h : s.execState ≠ .halt) : (completeCycle d s).dt = timerDown s.dt := by
  rw [completeCycle_of_not_halt d h]; rfl

theorem completeCycle_st_of_not_halt (h : s.execState ≠ .halt) : (completeCycle d s).st = timerDown s.st := by
  rw [completeCycle_of_not_halt d h]; rfl

theorem completeCycle_stopTone_of_not_halt (h : s.execState ≠ .halt) :
    (completeCycle d s).stopTone = true ↔ s.st = 1 := by
  rw [completeCycle_of_not_halt d h]
  exact decide_eq_true_iff

theorem completeCycle_dt_toNat (h : s.execState ≠ .halt) : (completeCycle d s).dt.toNat = s.dt.toNat - 1 := by
  rw [completeCycle_dt_of_not_halt d h, timerDown_toNat]

theorem completeCycle_st_toNat (h : s.execState ≠ .halt) : (completeCycle d s).st.toNat = s.st.toNat - 1 := by
  rw [completeCycle_st_of_not_halt d h, timerDown_toNat]

end

/-- Settles O6: in HALT the end of a cycle is `withoutTick` and otherwise `tick`, and `endCycle` moves the interface on. -/
theorem cycleEndTicksUnlessHalted : Obligations.CycleEndTicksUnlessHalted := by
  intro d t
  refine ⟨rfl, completeCycle_inputs d t, completeCycle_cycle d t, rfl, ?frame, ?halted, ?ticked⟩
  case frame => exact completeCycle_sameExcept (.inl rfl) (.inr (.inl rfl)) (fun _ hf => .inr (.inr hf)) d t
  case halted =>
    exact fun h => ⟨completeCycle_dt_of_halt d h, completeCycle_st_of_halt d h, completeCycle_stopTone_of_halt d h⟩
  case ticked =>
    refine fun h => ⟨completeCycle_dt_toNat d h, completeCycle_st_toNat d h, ?_⟩
    rw [completeCycle_stopTone_of_not_halt d h]
    exact BitVec.toNat_inj.symm

theorem exec_ldDtVx (x : Nibble) (s : State) : exec (.ldDtVx x) s = .next (s.setDt (s.reg x)).advance := rfl

theorem exec_ldStVx (x : Nibble) (s : State) : exec (.ldStVx x) s = .next (s.setSt (s.reg x)).advance := rfl

/-- Settles O43: each of the three is one register or timer write and the advance, and the end of the cycle ticks what it left. -/
theorem timerTransfersComeBeforeTheTick : Obligations.TimerTransfersComeBeforeTheTick := by
  intro s x hs
  refine ⟨⟨_, exec_ldVxDt x s, setReg_reg_same s x _, rfl, setReg_advance_sameExcept s x _, ?read, ?readTick⟩,
    ⟨_, exec_ldDtVx x s, rfl, rfl, ?delayFrame, ?delayTick⟩,
    ⟨_, exec_ldStVx x s, rfl, rfl, ?soundFrame, ?soundTick, ?pulse⟩⟩
  case read => rw [completeCycle_reg, advance_reg, setReg_reg_same]
  case readTick => exact completeCycle_dt_toNat none hs
  case delayFrame => exact (setDt_sameExcept (.inl rfl) _).trans (advance_sameExcept (.inr rfl))
  case delayTick => exact completeCycle_dt_toNat none hs
  case soundFrame => exact (setSt_sameExcept (.inl rfl) _).trans (advance_sameExcept (.inr rfl))
  case soundTick => exact completeCycle_st_toNat none hs
  case pulse => exact completeCycle_stopTone_of_not_halt none hs

/-! ### A step in each state of EXEC -/

theorem step_of_halt {s : State} (h : s.execState = .halt) : step s = .next (completeCycle none s) := by
  simp only [step, h]

theorem step_of_waitKey {s : State} {x : Nibble} (h : s.execState = .waitKey x) :
    step s = .next (completeCycle none (keyWaitStep x s)) := by
  simp only [step, h]

theorem step_of_noFetch {s : State} (h : s.execState = .run) (hf : fetchWord s = none) :
    step s = .next (completeCycle none (fetchFault s)) := by
  simp only [step, h, hf]

theorem step_of_unrecognized {s : State} {op : Word} {e : DecodeError} (h : s.execState = .run)
    (hf : fetchWord s = some op) (hd : decodeWord op = .error e) :
    step s = .next (completeCycle (some (diagReport s op)) (skipUnrecognized s)) := by
  simp only [step, h, hf, hd]

theorem step_of_exec {s t : State} {op : Word} {i : Instr} (h : s.execState = .run) (hf : fetchWord s = some op)
    (hd : decodeWord op = .ok i) (he : exec i s = .next t) : step s = .next (completeCycle none t) := by
  simp only [step, h, hf, hd, he]

/-- Settles O5: the two bytes at PC are the word fetched. -/
theorem stepRunsTheDecodedInstruction : Obligations.StepRunsTheDecodedInstruction :=
  fun _ _ _ hrun hpc hd he => step_of_exec hrun (fetchWord_some hpc) hd he

/-- Settles O8: the step of an unrecognised word is the advance, and the cycle ends with its report and a tick. -/
theorem unrecognisedWordIsReportedAndSkipped : Obligations.UnrecognisedWordIsReportedAndSkipped := by
  intro s op hrun hpc hop hd
  have hnot : (skipUnrecognized s).execState ≠ .halt := by rw [skipUnrecognized, advance_execState, hrun]; exact nofun
  refine ⟨_, step_of_unrecognized hrun ((fetchWord_some hpc).trans (congrArg some hop.symm)) hd, completeCycle_pc _ _, rfl,
    completeCycle_dt_toNat _ hnot, completeCycle_st_toNat _ hnot, ?frame⟩
  case frame =>
    exact (advance_sameExcept (.inl rfl)).trans (completeCycle_sameExcept (.inr (.inl rfl)) (.inr (.inr (.inl rfl)))
      (fun _ hf => .inr (.inr (.inr hf))) _ _)

/-- Settles O9: without a word to fetch the cycle is the raise of the fault, and a halted cycle's end moves the interface alone. -/
theorem fetchOutsideMemoryHalts : Obligations.FetchOutsideMemoryHalts := by
  intro s hrun hpc
  refine ⟨_, step_of_noFetch hrun (fetchWord_none (Nat.succ_le_succ hpc)), completeCycle_execState _ _,
    completeCycle_fault _ _, completeCycle_stopTone_of_halt _ rfl, rfl, ?frame⟩
  case frame =>
    exact (raise_sameExcept (.inl rfl) (.inr (.inl rfl)) _ _ _).trans
      (completeCycle_sameExcept_of_halt (fun _ hf => .inr (.inr hf)) _ rfl)

/-- Settles O10, by induction on the number of cycles: a halted cycle changes the interface alone, so EXEC stays HALT. -/
theorem haltIsAbsorbing : Obligations.HaltIsAbsorbing := by
  intro s n
  induction n generalizing s with
  | zero => exact fun _ => ⟨s, rfl, fun f _ => by cases f <;> rfl, fun h => absurd h (lt_irrefl 0)⟩
  | succ n ih =>
    intro hs
    have hs' : (completeCycle none s).execState = .halt := (completeCycle_execState none s).trans hs
    obtain ⟨t, hrun, hframe, hpulse⟩ := ih _ hs'
    refine ⟨t, (run_succ_next (step_of_halt hs) n).trans hrun,
      (completeCycle_sameExcept_of_halt (fun _ hf => hf) none hs).trans hframe, fun _ => ?silent⟩
    case silent =>
      cases n with
      | zero =>
        obtain rfl : completeCycle none s = t := Host.Outcome.next.inj hrun
        exact ⟨completeCycle_stopTone_of_halt none hs, rfl⟩
      | succ n => exact hpulse n.succ_pos

theorem keyWaitStep_of_none {x : Nibble} {s : State} (h : s.input.event = none) : keyWaitStep x s = s := by
  simp only [keyWaitStep, h]

theorem keyWaitStep_of_event {x k : Nibble} {s : State} (h : s.input.event = some k) :
    keyWaitStep x s = ((s.setReg x (keyByte k)).advance).setExec .run := by
  simp only [keyWaitStep, h]

/-- A wait's cycle moves neither timer before the tick and never halts. -/
theorem keyWaitStep_timers {s : State} {x : Nibble} (hs : s.execState = .waitKey x) :
    (keyWaitStep x s).dt = s.dt ∧ (keyWaitStep x s).st = s.st ∧ (keyWaitStep x s).execState ≠ .halt := by
  cases hev : s.input.event with
  | none =>
    rw [keyWaitStep_of_none hev, hs]
    exact ⟨rfl, rfl, nofun⟩
  | some k =>
    rw [keyWaitStep_of_event hev]
    exact ⟨rfl, rfl, nofun⟩

/-- Settles O11: a wait's cycle is `keyWaitStep` and a tick, with no fetch. -/
theorem keyWaitEndsWithAKeyPress : Obligations.KeyWaitEndsWithAKeyPress := by
  intro s x hs
  obtain ⟨hdt, hst, hnot⟩ := keyWaitStep_timers hs
  refine ⟨_, step_of_waitKey hs, ?delay, ?sound, fun hev => ?waiting, fun k hev => ?pressed⟩
  case delay => rw [completeCycle_dt_toNat none hnot, hdt]
  case sound => rw [completeCycle_st_toNat none hnot, hst]
  case waiting =>
    rw [keyWaitStep_of_none hev]
    exact completeCycle_sameExcept (.inl rfl) (.inr (.inl rfl)) (fun _ hf => .inr (.inr hf)) none s
  case pressed =>
    rw [keyWaitStep_of_event hev]
    refine ⟨?key, completeCycle_pc _ _, completeCycle_execState _ _, ?frame⟩
    case key => rw [completeCycle_reg, setExec_reg, advance_reg, setReg_reg_same, keyByte_toNat]
    case frame =>
      refine (setReg_sameExcept (.inl rfl) _).trans <| (advance_sameExcept (.inr (.inl rfl))).trans <|
        (setExec_sameExcept (.inr (.inr (.inl rfl))) _).trans <|
        completeCycle_sameExcept (.inr (.inr (.inr (.inl rfl)))) (.inr (.inr (.inr (.inr (.inl rfl)))))
          (fun _ hf => .inr (.inr (.inr (.inr (.inr hf))))) none _

/-- Every cycle ends by `completeCycle`. -/
theorem exists_completeCycle_of_step {s t : State} (h : step s = .next t) : ∃ d u, t = completeCycle d u := by
  obtain ⟨-, rfl⟩ | ⟨x, -, rfl⟩ | ⟨-, -, rfl⟩ | ⟨op, e, -, -, -, rfl⟩ | ⟨op, i, u, -, -, -, -, rfl⟩ := step_cases h
  all_goals exact ⟨_, _, rfl⟩

theorem loadProgram_closed {s : State} (h : s.loadOpen = false) (rom : List Byte) :
    loadProgram rom s = .refused .loadNotAdmitted := by
  rw [loadProgram, if_pos h]

/-- Settles O18: the end of every cycle closes the load, and Reset opens it. -/
theorem loadIsAdmittedOnlyBetweenResetAndTheFirstCycle :
    Obligations.LoadIsAdmittedOnlyBetweenResetAndTheFirstCycle := by
  refine ⟨fun s t rom h => ?closed, fun s font rom hlen => ⟨_, loadProgram_fits rfl hlen⟩⟩
  case closed =>
    obtain ⟨d, u, rfl⟩ := exists_completeCycle_of_step h
    exact loadProgram_closed rfl rom

/-- No word of family 0 is unrecognised (R69, R70). -/
theorem decodeWord_family0_ne_error (nnn : Addr) (e : DecodeError) : decodeWord (0x0#4 ++ nnn) ≠ .error e := by
  simp [decodeWord, decodeFamily0_ne_error]

/-- Settles O25: SYS is the advance, and a cycle reports on DIAG only where its word is unrecognised. -/
theorem sysOnlyAdvances : Obligations.SysOnlyAdvances := by
  intro s nnn
  refine ⟨decodeWord_sys, ⟨_, exec_sys nnn s, rfl, advance_sameExcept (by rfl)⟩, fun t hrun hf h => ?noReport⟩
  case noReport =>
    obtain ⟨-, rfl⟩ | ⟨x, -, rfl⟩ | ⟨-, -, rfl⟩ | ⟨op, e, -, hop, hd, -⟩ | ⟨op, i, u, -, -, -, -, rfl⟩ := step_cases h
    case inr.inr.inr.inl =>
      obtain rfl : 0x0#4 ++ nnn = op := Option.some.inj (hf.symm.trans hop)
      exact absurd hd (decodeWord_family0_ne_error nnn e)
    all_goals rfl

end Sys2Proof.Machine

/-! What an instruction can do, said once (O14, O52, O53, O54): the operands on which it raises a fatal error, the shapes its
effect can have, and the pieces of state it can write. -/

namespace Sys2Proof.Machine

/-! ### Fatal errors and effects -/

/-- `i` is a transfer of `n` bytes at I (R46). -/
def TransfersBytes (i : Instr) (n : Nat) : Prop :=
  (∃ x y m, i = .drw x y m ∧ n = m.toNat) ∨ (∃ x, i = .ldB x ∧ n = 3) ∨
    ∃ x, (i = .storeRegs x ∨ i = .loadRegs x) ∧ n = x.toNat + 1

/-- In `s` the instruction raises a fatal error with this cause and info (R141). -/
inductive Raises (s : State) : Instr → FaultCode → BitVec 17 → Prop
  | stackUnderflow (h : s.sp.val = 0) : Raises s .ret .stackUnderflow 0
  | stackOverflow (nnn : Addr) (h : s.sp.val = 16) : Raises s (.call nnn) .stackOverflow 0
  | keyIndex {i : Instr} {x : Nibble} (hi : i = .skp x ∨ i = .sknp x) (h : 15 < (s.reg x).toNat) :
      Raises s i .keyIndexOutOfRange ((s.reg x).setWidth 17)
  | memory {i : Instr} {n k : Nat} (hi : TransfersBytes i n) (hk : k < n) (hge : Config.memSize ≤ s.i.toNat + k)
      (hlow : ∀ j, j < k → s.i.toNat + j < Config.memSize) :
      Raises s i .memoryOutOfBounds (BitVec.ofNat 17 (s.i.toNat + k))

/-- The shapes of an instruction's effect: from `s`, instruction `i` can lead to the state `t`. A skip and a jump write PC alone, so
their shapes do not say which instruction they belong to. -/
inductive Effect (s : State) : Instr → State → Prop
  | raise {i : Instr} {c : FaultCode} {info : BitVec 17} (h : Raises s i c info) : Effect s i (s.raise c info (encode i))
  | sys (nnn : Addr) : Effect s (.sys nnn) s.advance
  | skip (i : Instr) (c : Bool) : Effect s i (s.skipIf c)
  | jump (i : Instr) {w : Word} (hw : w.toNat ≤ 0x10FE) : Effect s i (s.setPc w)
  | call {nnn : Addr} {t : State} (h : s.push (s.pc + 2) = some t) : Effect s (.call nnn) (t.setPc (zextAddr nnn))
  | ret {w : Word} {t : State} (h : s.pop = some (w, t)) : Effect s .ret (t.setPc w)
  | plain {i : Instr} {x : Nibble} (b : Byte) (hi : plainDestination i = some x) : Effect s i (s.setReg x b).advance
  | flagged {i : Instr} {x : Nibble} (b : Byte) (f : Bool) (hi : flaggedDestination i = some x) :
      Effect s i (s.setResultFlag x b f).advance
  | index {i : Instr} (w : Word) (hi : (∃ nnn, i = .ldI nnn) ∨ ∃ x, i = .addI x ∨ i = .ldF x) :
      Effect s i (s.setI w).advance
  | delay (x : Nibble) : Effect s (.ldDtVx x) (s.setDt (s.reg x)).advance
  | sound (x : Nibble) : Effect s (.ldStVx x) (s.setSt (s.reg x)).advance
  | clear : Effect s .cls (s.setDisplay Framebuffer.blank).advance
  | draw (x y n : Nibble) : Effect s (.drw x y n) (drawEffect x y n s)
  | keyPressed (x k : Nibble) : Effect s (.ldVxK x) (s.setReg x (keyByte k)).advance
  | keyWait (x : Nibble) : Effect s (.ldVxK x) (s.setExec (.waitKey x))
  | store {i : Instr} (n : Nat) (g : Nat → Byte) (hi : ∃ x, i = .ldB x ∨ i = .storeRegs x) :
      Effect s i (s.setMem (s.mem.writeRange s.i.toNat n g)).advance
  | load (x : Nibble) : Effect s (.loadRegs x) (s.loadRange (x.toNat + 1)).advance

/-! ### Every instruction answers a next state, and it has one of these shapes -/

section
variable (s : State)

theorem exists_effect_call (nnn : Addr) : ∃ t, exec (.call nnn) s = .next t ∧ Effect s (.call nnn) t := by
  obtain ⟨-, t, hpush, -⟩ | ⟨hfull, hnone⟩ := push_cases s (s.pc + 2)
  · exact ⟨_, exec_call_of_push hpush, .call hpush⟩
  · exact ⟨_, exec_call_of_full hnone, .raise (.stackOverflow nnn hfull)⟩

theorem exists_effect_ret : ∃ t, exec .ret s = .next t ∧ Effect s .ret t := by
  obtain ⟨-, t, hpop, -⟩ | ⟨hempty, hnone⟩ := pop_cases s
  · exact ⟨_, exec_ret_of_pop hpop, .ret hpop⟩
  · exact ⟨_, exec_ret_of_empty hnone, .raise (.stackUnderflow hempty)⟩

theorem exists_effect_skp (x : Nibble) : ∃ t, exec (.skp x) s = .next t ∧ Effect s (.skp x) t := by
  obtain ⟨-, hkey, -⟩ | ⟨habove, hnone⟩ := keyIndex_cases (s.reg x)
  · exact ⟨_, exec_skp_of_key hkey, .skip _ _⟩
  · exact ⟨_, exec_skp_of_noKey hnone, .raise (.keyIndex (.inl rfl) habove)⟩

theorem exists_effect_sknp (x : Nibble) : ∃ t, exec (.sknp x) s = .next t ∧ Effect s (.sknp x) t := by
  obtain ⟨-, hkey, -⟩ | ⟨habove, hnone⟩ := keyIndex_cases (s.reg x)
  · exact ⟨_, exec_sknp_of_key hkey, .skip _ _⟩
  · exact ⟨_, exec_sknp_of_noKey hnone, .raise (.keyIndex (.inr rfl) habove)⟩

theorem exists_effect_ldVxK (x : Nibble) : ∃ t, exec (.ldVxK x) s = .next t ∧ Effect s (.ldVxK x) t := by
  cases hev : s.input.event with
  | none => exact ⟨_, exec_ldVxK_of_none hev, .keyWait x⟩
  | some k => exact ⟨_, exec_ldVxK_of_event hev, .keyPressed x k⟩

/-- A transfer either has its effect or raises the memory fault. -/
theorem exists_effect_transfer {s e : State} {i : Instr} {n : Nat}
    (he : exec i s = .next (s.withCheckedAddrs n (encode i) e)) (hi : TransfersBytes i n) (heffect : Effect s i e) :
    ∃ t, exec i s = .next t ∧ Effect s i t := by
  obtain ⟨-, heq⟩ | ⟨-, k, hk, hge, hlow, heq⟩ := withCheckedAddrs_cases s e n (encode i)
  · exact ⟨e, he.trans (congrArg _ heq), heffect⟩
  · exact ⟨_, he.trans (congrArg _ heq), .raise (.memory hi hk hge hlow)⟩

theorem exists_effect (i : Instr) : ∃ t, exec i s = .next t ∧ Effect s i t := by
  cases i with
  | cls => exact ⟨_, exec_cls s, .clear⟩
  | ret => exact exists_effect_ret s
  | sys nnn => exact ⟨_, exec_sys nnn s, .sys nnn⟩
  | jp nnn => exact ⟨_, exec_jp nnn s, .jump _ (by rw [zextAddr_toNat]; omega)⟩
  | call nnn => exact exists_effect_call s nnn
  | seImm x nn => exact ⟨_, exec_seImm x nn s, .skip _ _⟩
  | sneImm x nn => exact ⟨_, exec_sneImm x nn s, .skip _ _⟩
  | seReg x y => exact ⟨_, exec_seReg x y s, .skip _ _⟩
  | ldImm x nn => exact ⟨_, exec_ldImm x nn s, .plain _ rfl⟩
  | addImm x nn => exact ⟨_, exec_addImm x nn s, .plain _ rfl⟩
  | ldReg x y => exact ⟨_, exec_ldReg x y s, .plain _ rfl⟩
  | orReg x y => exact ⟨_, exec_orReg x y s, .plain _ rfl⟩
  | andReg x y => exact ⟨_, exec_andReg x y s, .plain _ rfl⟩
  | xorReg x y => exact ⟨_, exec_xorReg x y s, .plain _ rfl⟩
  | addReg x y => exact ⟨_, exec_addReg x y s, .flagged _ _ rfl⟩
  | subReg x y => exact ⟨_, exec_subReg x y s, .flagged _ _ rfl⟩
  | shr x y => exact ⟨_, exec_shr x y s, .flagged _ _ rfl⟩
  | subnReg x y => exact ⟨_, exec_subnReg x y s, .flagged _ _ rfl⟩
  | shl x y => exact ⟨_, exec_shl x y s, .flagged _ _ rfl⟩
  | sneReg x y => exact ⟨_, exec_sneReg x y s, .skip _ _⟩
  | ldI nnn => exact ⟨_, exec_ldI nnn s, .index _ (.inl ⟨nnn, rfl⟩)⟩
  | jpV0 nnn => exact ⟨_, exec_jpV0 nnn s, .jump _ (by rw [zextByte_add_zextAddr_toNat]; omega)⟩
  | rnd x nn => exact ⟨_, exec_rnd x nn s, .plain _ rfl⟩
  | drw x y n => exact exists_effect_transfer (exec_drw x y n s) (.inl ⟨x, y, n, rfl, rfl⟩) (.draw x y n)
  | skp x => exact exists_effect_skp s x
  | sknp x => exact exists_effect_sknp s x
  | ldVxDt x => exact ⟨_, exec_ldVxDt x s, .plain _ rfl⟩
  | ldVxK x => exact exists_effect_ldVxK s x
  | ldDtVx x => exact ⟨_, exec_ldDtVx x s, .delay x⟩
  | ldStVx x => exact ⟨_, exec_ldStVx x s, .sound x⟩
  | addI x => exact ⟨_, exec_addI x s, .index _ (.inr ⟨x, .inl rfl⟩)⟩
  | ldF x => exact ⟨_, exec_ldF x s, .index _ (.inr ⟨x, .inr rfl⟩)⟩
  | ldB x =>
    exact exists_effect_transfer (exec_ldB x s) (.inr (.inl ⟨x, rfl, rfl⟩)) (.store _ _ ⟨x, .inl rfl⟩)
  | storeRegs x =>
    exact exists_effect_transfer (exec_storeRegs x s) (.inr (.inr ⟨x, .inl rfl, rfl⟩)) (.store _ _ ⟨x, .inr rfl⟩)
  | loadRegs x => exact exists_effect_transfer (exec_loadRegs x s) (.inr (.inr ⟨x, .inr rfl, rfl⟩)) (.load x)

end

/-- The next state of an instruction has one of the shapes. -/
theorem effect_of_exec {i : Instr} {s t : State} (h : exec i s = .next t) : Effect s i t := by
  obtain ⟨u, hu, heffect⟩ := exists_effect s i
  exact exec_next_unique h hu ▸ heffect

/-- The step of an unrecognised word is that of SYS (R68, R82). -/
theorem effect_skipUnrecognized (s : State) : Effect s (.sys 0) (skipUnrecognized s) := .sys 0

/-- Settles O12: a step ends in `completeCycle`, and the one operation under it that could stop, `exec`, never does. -/
theorem everyCycleAnswersANextState : Obligations.EveryCycleAnswersANextState := by
  intro s
  cases hs : s.execState with
  | halt => exact ⟨_, step_of_halt hs⟩
  | waitKey x => exact ⟨_, step_of_waitKey hs⟩
  | run =>
    cases hf : fetchWord s with
    | none => exact ⟨_, step_of_noFetch hs hf⟩
    | some op =>
      cases hd : decodeWord op with
      | error e => exact ⟨_, step_of_unrecognized hs hf hd⟩
      | ok i =>
        obtain ⟨t, ht, -⟩ := exists_effect s i
        exact ⟨_, step_of_exec hs hf hd ht⟩

/-! ### Which pieces of state an instruction can write -/

/-- The pieces of state that instruction `i` can write: the table of O54. PC, EXEC and FAULT are left open here. -/
def WrittenBy (i : Instr) : Field → Prop
  | .reg k => plainDestination i = some k ∨ flaggedDestination i = some k ∨
      (k = 0xF ∧ (flaggedDestination i ≠ none ∨ ∃ x y n, i = .drw x y n)) ∨ i = .ldVxK k ∨
      ∃ x, i = .loadRegs x ∧ k.toNat ≤ x.toNat
  | .index => (∃ nnn, i = .ldI nnn) ∨ ∃ x, i = .addI x ∨ i = .ldF x
  | .sp => i = .ret ∨ ∃ nnn, i = .call nnn
  | .stackEntry _ => ∃ nnn, i = .call nnn
  | .delay => ∃ x, i = .ldDtVx x
  | .sound => ∃ x, i = .ldStVx x
  | .dirty | .pixel _ _ => i = .cls ∨ ∃ x y n, i = .drw x y n
  | .byte _ => ∃ x, i = .ldB x ∨ i = .storeRegs x
  | .pc | .execState | .fault => True
  | .stopTone | .diag | .inputs | .cycle | .loadOpen => False

theorem not_writtenBy_of_ofInterface (i : Instr) {f : Field} (hf : f.ofInterface) : ¬ WrittenBy i f := by
  intro h
  cases f with
  | stopTone | diag | inputs | cycle | loadOpen => exact h
  | _ => exact hf

theorem drawEffect_sameExcept {written : Field → Prop} (hpixel : ∀ c r, written (.pixel c r)) (hdirty : written .dirty)
    (hvf : written (.reg vf)) (hpc : written .pc) (x y n : Nibble) (s : State) :
    SameExcept written s (drawEffect x y n s) :=
  ((setDisplay_sameExcept hpixel hdirty _).trans (setReg_sameExcept hvf _)).trans (advance_sameExcept hpc)

/-- An instruction writes nothing but the pieces of the table. -/
theorem Effect.sameExcept {s t : State} {i : Instr} (h : Effect s i t) : SameExcept (WrittenBy i) s t := by
  cases h with
  | raise _ => exact raise_sameExcept trivial trivial _ _ _
  | sys => exact advance_sameExcept trivial
  | skip => exact skipIf_sameExcept trivial _
  | jump => exact setPc_sameExcept trivial _
  | call h => exact (push_sameExcept h (.inr ⟨_, rfl⟩) ⟨_, rfl⟩).trans (setPc_sameExcept trivial _)
  | ret h => exact (pop_sameExcept h (.inl rfl)).trans (setPc_sameExcept trivial _)
  | plain b hi => exact (setReg_sameExcept (.inl hi) b).trans (advance_sameExcept trivial)
  | flagged b f hi =>
    have hvf : WrittenBy i (.reg vf) := .inr (.inr (.inl ⟨rfl, .inl (by rw [hi]; exact nofun)⟩))
    exact (setResultFlag_sameExcept (.inr (.inl hi)) hvf b f).trans (advance_sameExcept trivial)
  | index w hi => exact (setI_sameExcept hi w).trans (advance_sameExcept trivial)
  | delay x => exact (setDt_sameExcept ⟨x, rfl⟩ _).trans (advance_sameExcept trivial)
  | sound x => exact (setSt_sameExcept ⟨x, rfl⟩ _).trans (advance_sameExcept trivial)
  | clear => exact (setDisplay_sameExcept (fun _ _ => .inl rfl) (.inl rfl) _).trans (advance_sameExcept trivial)
  | draw x y n =>
    have hdraw : ∃ x' y' n', Instr.drw x y n = .drw x' y' n' := ⟨x, y, n, rfl⟩
    exact drawEffect_sameExcept (fun _ _ => .inr hdraw) (.inr hdraw) (.inr (.inr (.inl ⟨rfl, .inr hdraw⟩))) trivial x y n s
  | keyPressed x k =>
    exact (setReg_sameExcept (.inr (.inr (.inr (.inl rfl)))) _).trans (advance_sameExcept trivial)
  | keyWait x => exact setExec_sameExcept trivial _
  | store n g hi => exact store_sameExcept trivial (fun _ _ => hi) g
  | load x =>
    have hreg (k : Nibble) (hk : k.toNat < x.toNat + 1) : WrittenBy (.loadRegs x) (.reg k) :=
      .inr (.inr (.inr (.inr ⟨x, rfl, Nat.le_of_lt_succ hk⟩)))
    exact (loadRange_sameExcept (by omega) hreg).trans (advance_sameExcept trivial)

/-- EXEC and FAULT change only where FX0A starts its wait and where a fatal error is raised. -/
theorem Effect.execState_cases {s t : State} {i : Instr} (h : Effect s i t) :
    (t.execState = s.execState ∧ t.fault = s.fault) ∨
    (∃ x, i = .ldVxK x ∧ t = s.setExec (.waitKey x)) ∨
    ∃ c info, Raises s i c info ∧ t = s.raise c info (encode i) := by
  cases h with
  | raise h => exact .inr (.inr ⟨_, _, h, rfl⟩)
  | keyWait x => exact .inr (.inl ⟨x, rfl, rfl⟩)
  | call h => rw [push_rest h]; exact .inl ⟨rfl, rfl⟩
  | ret h => rw [pop_rest h]; exact .inl ⟨rfl, rfl⟩
  | load x => exact .inl ⟨loadRange_execState s _, loadRange_fault s _⟩
  | _ => exact .inl ⟨rfl, rfl⟩

/-- Settles O54: the table `WrittenBy` for every piece but EXEC and FAULT, and `Effect.execState_cases` for these two. -/
theorem onlyTheNamedInstructionsChangeEachState : Obligations.OnlyTheNamedInstructionsChangeEachState := by
  intro i s t h
  have heffect : Effect s i t := effect_of_exec h
  have hframe : SameExcept (WrittenBy i) s t := heffect.sameExcept
  refine ⟨fun k hk => hframe.written_of_not_same (f := .reg k) hk, hframe.written_of_not_same (f := .index),
    hframe.written_of_not_same (f := .sp), fun ⟨k, hk⟩ => hframe.written_of_not_same (f := .stackEntry k) hk,
    hframe.written_of_not_same (f := .delay), hframe.written_of_not_same (f := .sound), ?display,
    fun ⟨a, ha⟩ => hframe.written_of_not_same (f := .byte a) ha, ?exec, ?fault,
    fun f hf => hframe f (not_writtenBy_of_ofInterface i hf)⟩
  case display =>
    rintro (hdirty | ⟨c, r, hpixel⟩)
    · exact hframe.written_of_not_same (f := .dirty) hdirty
    · exact hframe.written_of_not_same (f := .pixel c r) hpixel
  case exec =>
    intro hne
    obtain ⟨hsame, -⟩ | ⟨x, hi, rfl⟩ | ⟨c, info, -, rfl⟩ := heffect.execState_cases
    · exact absurd hsame hne
    · exact .inl ⟨x, hi, rfl⟩
    · exact .inr rfl
  case fault =>
    intro hne
    obtain ⟨-, hsame⟩ | ⟨x, -, rfl⟩ | ⟨c, info, -, rfl⟩ := heffect.execState_cases
    · exact absurd hsame hne
    · exact absurd rfl hne
    · rfl

/-! ### The frames of the instructions on registers, of the jumps and of CLS -/

theorem exec_of_plainDestination {i : Instr} {x : Nibble} (hi : plainDestination i = some x) (s : State) :
    ∃ b, exec i s = .next (s.setReg x b).advance := by
  cases i with
  | ldImm | addImm | ldReg | orReg | andReg | xorReg | rnd | ldVxDt => cases hi; exact ⟨_, rfl⟩
  | _ => cases hi

theorem exec_of_flaggedDestination {i : Instr} {x : Nibble} (hi : flaggedDestination i = some x) (s : State) :
    ∃ b f, exec i s = .next (s.setResultFlag x b f).advance := by
  cases i with
  | addReg | subReg | shr | subnReg | shl => cases hi; exact ⟨_, _, rfl⟩
  | _ => cases hi

/-- Settles O52: the plain and the flagged destinations are one write or two; FX0A and FX65 are told apart by their outcomes. -/
theorem registerInstructionsChangeOnlyTheirTargets : Obligations.RegisterInstructionsChangeOnlyTheirTargets := by
  intro s t i x h
  refine ⟨fun hi => ?plain, fun hi => ?flagged, fun hi => ?key, fun hi => ?load⟩
  case plain =>
    obtain ⟨b, hb⟩ := exec_of_plainDestination hi s
    exact exec_next_unique h hb ▸ setReg_advance_sameExcept s x b
  case flagged =>
    obtain ⟨b, f, hb⟩ := exec_of_flaggedDestination hi s
    exact exec_next_unique h hb ▸
      (setResultFlag_sameExcept (.inl rfl) (.inr (.inl rfl)) b f).trans (advance_sameExcept (.inr (.inr rfl)))
  case key =>
    subst hi
    cases hev : s.input.event with
    | none => exact exec_next_unique h (exec_ldVxK_of_none hev) ▸ setExec_sameExcept (.inr (.inr rfl)) _
    | some k =>
      exact exec_next_unique h (exec_ldVxK_of_event hev) ▸
        (setReg_sameExcept (.inl rfl) _).trans (advance_sameExcept (.inr (.inl rfl)))
  case load =>
    subst hi
    by_cases hin : s.inMemory (x.toNat + 1)
    · obtain ⟨u, hu, -, -, hframe⟩ := loadRegsLoadsV0ToVx s x hin
      exact .inl (exec_next_unique h hu ▸ hframe)
    · obtain ⟨u, hu, -, -, -, -, -, hframe⟩ :=
        transfersOutsideMemoryHalt s (.loadRegs x) _ (.inr (.inr ⟨x, .inr rfl, rfl⟩)) hin
      exact .inr (exec_next_unique h hu ▸ hframe)

/-- Settles O53: each of these instructions is one write of PC, after at most one other write. -/
theorem flowAndClearChangeOnlyTheirTargets : Obligations.FlowAndClearChangeOnlyTheirTargets := by
  intro s t i h
  refine ⟨?flow, ?index, ?clear⟩
  case flow =>
    rintro (⟨nnn, rfl | rfl | rfl⟩ | ⟨x, nn, rfl | rfl⟩ | ⟨x, y, rfl | rfl⟩)
    · exact exec_next_unique h (exec_sys nnn s) ▸ advance_sameExcept (by rfl)
    · exact exec_next_unique h (exec_jp nnn s) ▸ setPc_sameExcept (by rfl) _
    · exact exec_next_unique h (exec_jpV0 nnn s) ▸ setPc_sameExcept (by rfl) _
    · exact exec_next_unique h (exec_seImm x nn s) ▸ skipIf_sameExcept (by rfl) _
    · exact exec_next_unique h (exec_sneImm x nn s) ▸ skipIf_sameExcept (by rfl) _
    · exact exec_next_unique h (exec_seReg x y s) ▸ skipIf_sameExcept (by rfl) _
    · exact exec_next_unique h (exec_sneReg x y s) ▸ skipIf_sameExcept (by rfl) _
  case index =>
    rintro ⟨nnn, rfl⟩
    exact exec_next_unique h (exec_ldI nnn s) ▸ setI_advance_sameExcept s _
  case clear =>
    rintro rfl
    exact exec_next_unique h (exec_cls s) ▸ (setDisplay_sameExcept (fun c r => .inl ⟨c, r, rfl⟩) (.inr (.inl rfl)) _).trans
      (advance_sameExcept (.inr (.inr rfl)))

/-! ### Which operands raise a fatal error -/

theorem TransfersBytes.le_sixteen {i : Instr} {n : Nat} (h : TransfersBytes i n) : n ≤ 16 := by
  obtain ⟨x, y, m, -, rfl⟩ | ⟨x, -, rfl⟩ | ⟨x, -, rfl⟩ := h <;> omega

/-- A fatal error of an instruction leaves a legal record, whatever the PC of the step. -/
theorem Raises.legal {s : State} {i : Instr} {c : FaultCode} {info : BitVec 17} (h : Raises s i c info) (pc : Word) :
    FaultRecord.legal { code := c, pc := pc, opcode := encode i, info := info } := by
  cases h with
  | stackUnderflow => exact ⟨rfl, rfl⟩
  | stackOverflow nnn => exact ⟨opFamily_nnn _ _, rfl⟩
  | keyIndex _ hx =>
    simp only [FaultRecord.legal, keyInfo_toNat]
    exact ⟨hx, by omega⟩
  | @memory _ n k hi hk hge hlow =>
    have hn : n ≤ 16 := hi.le_sixteen
    have hlast : k ≠ 0 → s.i.toNat + (k - 1) < 4096 := fun hk0 => hlow (k - 1) (by omega)
    simp only [FaultRecord.legal, memoryInfo_toNat (show k < 16 by omega)]
    exact ⟨hge, by omega⟩

theorem exec_halts_of_halts {i : Instr} {s t u : State} (h : exec i s = .next t) (hu : exec i s = .next u)
    (hhalt : u.execState = .halt) : t.execState = .halt :=
  exec_next_unique h hu ▸ hhalt

/-- A transfer of at least one byte whose last address is outside memory halts (O48). -/
theorem exec_halts_of_not_inMemory {i : Instr} {s t : State} {n : Nat} (h : exec i s = .next t) (hi : TransfersBytes i n)
    (hpos : 0 < n) (hout : 4096 < s.i.toNat + n) : t.execState = .halt := by
  have hnot : ¬ s.inMemory n := fun hin => absurd ((inMemory_iff_of_pos hpos).1 hin) (Nat.not_le.mpr hout)
  obtain ⟨u, hu, hhalt, -⟩ := transfersOutsideMemoryHalt s i n hi hnot
  exact exec_halts_of_halts h hu hhalt

/-- Settles O14: a halted next state is a raise, whose operands `Raises` lists; and on these operands RET, CALL, the key skips and
the transfers halt (O28, O27, O41, O48). -/
theorem instructionsHaltExactlyOnTheListedOperands : Obligations.InstructionsHaltExactlyOnTheListedOperands := by
  intro i s t hs h
  constructor
  · intro hhalt
    obtain ⟨hsame, -⟩ | ⟨x, -, rfl⟩ | ⟨c, info, hraise, -⟩ := (effect_of_exec h).execState_cases
    · exact absurd (hsame.symm.trans hhalt) hs
    · cases hhalt
    · cases hraise with
      | stackUnderflow hsp => exact .inl ⟨rfl, hsp⟩
      | stackOverflow nnn hsp => exact .inr (.inl ⟨nnn, rfl, hsp⟩)
      | keyIndex hi hx => exact .inr (.inr (.inl ⟨_, hi, hx⟩))
      | memory hi hk hge =>
        have hge' : 4096 ≤ s.i.toNat + _ := hge
        obtain ⟨x, y, m, rfl, rfl⟩ | ⟨x, rfl, rfl⟩ | ⟨x, hi, rfl⟩ := hi
        · have hm : m ≠ 0 := by rintro rfl; exact absurd hk (Nat.not_lt_zero _)
          exact .inr (.inr (.inr (.inl ⟨x, y, m, rfl, hm, by omega⟩)))
        · exact .inr (.inr (.inr (.inr (.inl ⟨x, rfl, by omega⟩))))
        · exact .inr (.inr (.inr (.inr (.inr ⟨x, hi, by omega⟩))))
  · rintro (⟨rfl, hsp⟩ | ⟨nnn, rfl, hsp⟩ | ⟨x, rfl | rfl, hx⟩ | ⟨x, y, n, rfl, hn, hge⟩ | ⟨x, rfl, hge⟩ | ⟨x, hi, hge⟩)
    · obtain ⟨u, hu, hhalt, -⟩ := (retPopsAndResumes s).2 hsp
      exact exec_halts_of_halts h hu hhalt
    · obtain ⟨u, hu, hhalt, -⟩ := (callPushesAndJumps s nnn).2 hsp
      exact exec_halts_of_halts h hu hhalt
    · obtain ⟨u, hu, hhalt, -⟩ := (keySkipsHaltAboveKeyF s x hx).1
      exact exec_halts_of_halts h hu hhalt
    · obtain ⟨u, hu, hhalt, -⟩ := (keySkipsHaltAboveKeyF s x hx).2
      exact exec_halts_of_halts h hu hhalt
    · have hpos : 0 < n.toNat := Nat.pos_of_ne_zero fun h0 => hn (BitVec.eq_of_toNat_eq h0)
      exact exec_halts_of_not_inMemory h (.inl ⟨x, y, n, rfl, rfl⟩) hpos (by omega)
    · exact exec_halts_of_not_inMemory h (.inr (.inl ⟨x, rfl, rfl⟩)) (by decide) (by omega)
    · exact exec_halts_of_not_inMemory h (.inr (.inr ⟨x, hi, rfl⟩)) (by omega) (by omega)

end Sys2Proof.Machine

/-! Fatal errors, the pulse and the two invariants over a whole cycle (O13, O15, O21, O22). -/

namespace Sys2Proof.Machine

/-! ### A fatal error over a cycle -/

theorem fetchWord_eq_none_iff {s : State} : fetchWord s = none ↔ 0x0FFF ≤ s.pc.toNat := by
  refine ⟨fun h => by_contra fun hlt => ?_, fun h => fetchWord_none (Nat.succ_le_succ h)⟩
  rw [fetchWord_some (show s.pc.toNat + 1 < 4096 by omega)] at h
  cases h

theorem pc_lt_of_fetchWord {s : State} {op : Word} (h : fetchWord s = some op) : s.pc.toNat + 1 < 4096 := by
  by_contra hge
  rw [fetchWord_eq_none_iff.2 (by omega)] at h
  cases h

/-- The record a fetch outside memory leaves is legal. -/
theorem fetchFault_legal {s : State} (h : fetchWord s = none) : (fetchFault s).fault.legal :=
  ⟨rfl, rfl, fetchWord_eq_none_iff.1 h⟩

/-- A cycle that ends in HALT and did not begin there raised a fatal error, at the fetch or in the decoded instruction. -/
theorem step_halt_cases {s t : State} (hs : s.execState ≠ .halt) (h : step s = .next t) (ht : t.execState = .halt) :
    (fetchWord s = none ∧ t = completeCycle none (fetchFault s)) ∨
    ∃ op i c info, fetchWord s = some op ∧ encode i = op ∧ Raises s i c info ∧
      t = completeCycle none (s.raise c info (encode i)) := by
  obtain ⟨hx, -⟩ | ⟨x, hx, rfl⟩ | ⟨-, hf, rfl⟩ | ⟨op, e, hx, -, -, rfl⟩ | ⟨op, i, u, hx, hf, hd, he, rfl⟩ := step_cases h
  · exact absurd hx hs
  · rw [completeCycle_execState] at ht
    exact absurd ht (keyWaitStep_timers hx).2.2
  · exact .inl ⟨hf, rfl⟩
  · rw [completeCycle_execState] at ht
    exact absurd ht hs
  · rw [completeCycle_execState] at ht
    obtain ⟨hsame, -⟩ | ⟨x, -, rfl⟩ | ⟨c, info, hraise, rfl⟩ := (effect_of_exec he).execState_cases
    · exact absurd (hsame.symm.trans ht) hs
    · cases ht
    · exact .inr ⟨op, i, c, info, hf, (hasWord_of_decodeWord hd).2, hraise, rfl⟩

/-- A raise and the end of its cycle change EXEC, FAULT and the interface alone. -/
theorem completeCycle_raise_sameExcept (s : State) (c : FaultCode) (info : BitVec 17) (op : Word) :
    SameExcept (fun f => f = .execState ∨ f = .fault ∨ f.ofInterface) s (completeCycle none (s.raise c info op)) :=
  (raise_sameExcept (.inl rfl) (.inr (.inl rfl)) c info op).trans
    (completeCycle_sameExcept_of_halt (fun _ hf => .inr (.inr hf)) none rfl)

/-- Settles O13: the two ways a cycle can come to HALT are one raise each, and the word fetched is the encoding of the
instruction that ran (O2). -/
theorem fatalErrorIsPrecise : Obligations.FatalErrorIsPrecise := by
  intro s t hs h ht
  obtain ⟨hnone, rfl⟩ | ⟨op, i, c, info, hf, hop, hraise, rfl⟩ := step_halt_cases hs h ht
  · rw [completeCycle_fault]
    refine ⟨completeCycle_raise_sameExcept s _ _ _, completeCycle_stopTone_of_halt none rfl, rfl, rfl, fetchFault_legal hnone,
      fun op hop => ?someWord, fun _ => rfl⟩
    case someWord =>
      rw [hnone] at hop
      cases hop
  · rw [completeCycle_fault]
    refine ⟨completeCycle_raise_sameExcept s _ _ _, completeCycle_stopTone_of_halt none rfl, rfl, rfl, hraise.legal s.pc,
      fun op' hop' => ?sameWord, fun hnone => ?noWord⟩
    case sameWord => exact hop.trans (Option.some.inj (hf.symm.trans hop'))
    case noWord =>
      rw [hf] at hnone
      cases hnone

/-! ### The pulse -/

/-- The end of a cycle pulses only out of HALT and with ST = 1 before the tick. -/
theorem of_completeCycle_stopTone {d : Option Diag} {u : State} (h : (completeCycle d u).stopTone = true) :
    u.execState ≠ .halt ∧ u.st = 1 := by
  have hu : u.execState ≠ .halt := by
    intro hu
    rw [completeCycle_stopTone_of_halt d hu] at h
    cases h
  exact ⟨hu, (completeCycle_stopTone_of_not_halt d hu).1 h⟩

/-- The cycle runs FX18 with this x. -/
def State.RunsLdSt (s : State) (x : Nibble) : Prop :=
  s.execState = .run ∧ fetchWord s = some (encode (.ldStVx x))

/-- ST before the tick of a cycle: V[x] where the cycle runs FX18, and otherwise as it was. -/
theorem step_sound_cases {s t : State} (h : step s = .next t) :
    ∃ d u, t = completeCycle d u ∧
      ((∃ x, s.RunsLdSt x ∧ u.st = s.reg x) ∨ ((∀ x, ¬ s.RunsLdSt x) ∧ u.st = s.st)) := by
  obtain ⟨hx, rfl⟩ | ⟨x, hx, rfl⟩ | ⟨-, hf, rfl⟩ | ⟨op, e, hx, hf, hd, rfl⟩ | ⟨op, i, u, hx, hf, hd, he, rfl⟩ := step_cases h
  · refine ⟨_, _, rfl, .inr ⟨fun x hrun => ?_, rfl⟩⟩
    cases hx.symm.trans hrun.1
  · refine ⟨_, _, rfl, .inr ⟨fun x hrun => ?_, (keyWaitStep_timers hx).2.1⟩⟩
    cases hx.symm.trans hrun.1
  · refine ⟨_, _, rfl, .inr ⟨fun x hrun => ?_, rfl⟩⟩
    cases hf.symm.trans hrun.2
  · refine ⟨_, _, rfl, .inr ⟨fun x hrun => ?_, rfl⟩⟩
    obtain rfl : op = encode (.ldStVx x) := Option.some.inj (hf.symm.trans hrun.2)
    cases hd.symm.trans (decodeWord_encode rfl)
  · refine ⟨_, _, rfl, ?_⟩
    by_cases hi : ∃ x, i = .ldStVx x
    · obtain ⟨x, rfl⟩ := hi
      obtain rfl := exec_next_unique he (exec_ldStVx x s)
      exact .inl ⟨x, ⟨hx, (hasWord_of_decodeWord hd).2 ▸ hf⟩, rfl⟩
    · refine .inr ⟨fun x hrun => hi ⟨x, ?_⟩, (effect_of_exec he).sameExcept .sound hi⟩
      obtain rfl : op = encode (.ldStVx x) := Option.some.inj (hf.symm.trans hrun.2)
      exact eq_of_decodeWord_encode rfl hd

/-- One word is FX18 for one x. -/
theorem State.RunsLdSt.unique {s : State} {x y : Nibble} (hx : s.RunsLdSt x) (hy : s.RunsLdSt y) : x = y := by
  have hword : encode (.ldStVx x) = encode (.ldStVx y) := Option.some.inj (hx.2.symm.trans hy.2)
  have hinstr : Instr.ldStVx x = .ldStVx y :=
    eq_of_decodeWord_encode rfl ((congrArg decodeWord hword).symm.trans (decodeWord_encode rfl))
  exact Instr.ldStVx.inj hinstr

/-- Settles O15: a pulse is the tick's step of ST from 1, and ST before the tick is V[x] in an FX18 cycle and as it was in any
other. -/
theorem stopToneComesFromTheTickAlone : Obligations.StopToneComesFromTheTickAlone := by
  intro s t h hpulse
  obtain ⟨d, u, rfl, hsound⟩ := step_sound_cases h
  obtain ⟨hu, hone⟩ := of_completeCycle_stopTone hpulse
  have hst : (completeCycle d u).st = 0 := by
    rw [completeCycle_st_of_not_halt d hu, hone]
    rfl
  refine ⟨hst, decide_eq_false (not_not.mpr hst), (completeCycle_execState d u).symm ▸ hu, ?_, ?_⟩
  · intro y hrun hy
    obtain ⟨x, hx, hreg⟩ | ⟨hnot, -⟩ := hsound
    · rw [State.RunsLdSt.unique ⟨hrun, hy⟩ hx, ← hreg, hone]
    · exact absurd ⟨hrun, hy⟩ (hnot y)
  · obtain ⟨x, hx, hreg⟩ | ⟨-, hsame⟩ := hsound
    · exact .inr ⟨x, hx.1, hx.2, hreg ▸ hone⟩
    · exact .inl (hsame ▸ hone)

/-! ### The invariant of the block -/

theorem inv_completeCycle (d : Option Diag) (u : State) : (completeCycle d u).Inv ↔ u.Inv := by
  simp only [State.Inv, completeCycle_mem, completeCycle_execState, completeCycle_fault, completeCycle_pc]

theorem inv_raise {s : State} {c : FaultCode} {info : BitVec 17} {op : Word} (hs : s.Inv)
    (h : FaultRecord.legal { code := c, pc := s.pc, opcode := op, info := info }) : (s.raise c info op).Inv :=
  ⟨hs.1, fun _ => ⟨h, rfl⟩, fun hne => absurd rfl hne⟩

/-- Out of HALT the invariant is kept by canonical memory and an unchanged FAULT. -/
theorem State.Inv.of_not_halt {s t : State} (hs : s.Inv) (hnot : s.execState ≠ .halt) (hmem : t.mem.wf = true)
    (hfault : t.fault = s.fault) (ht : t.execState ≠ .halt) : t.Inv :=
  ⟨hmem, fun h => absurd h ht, fun _ => hfault.trans (hs.2.2 hnot)⟩

/-- Every effect keeps memory in canonical form: FX33 and FX55 write a range, and nothing else touches memory. -/
theorem Effect.mem_wf {s t : State} {i : Instr} (h : Effect s i t) (hs : s.mem.wf = true) : t.mem.wf = true := by
  cases h with
  | store n g => exact writeRange_wf hs _ n g
  | call h => rw [push_rest h]; exact hs
  | ret h => rw [pop_rest h]; exact hs
  | load x => exact (loadRange_mem s _).symm ▸ hs
  | _ => exact hs

theorem Effect.inv {s t : State} {i : Instr} (h : Effect s i t) (hs : s.Inv) (hrun : s.execState ≠ .halt) : t.Inv := by
  obtain ⟨hexec, hfault⟩ | ⟨x, -, rfl⟩ | ⟨c, info, hraise, rfl⟩ := h.execState_cases
  · exact hs.of_not_halt hrun (h.mem_wf hs.1) hfault (hexec ▸ hrun)
  · exact hs.of_not_halt hrun hs.1 rfl nofun
  · exact inv_raise hs (hraise.legal s.pc)

theorem inv_keyWaitStep {s : State} {x : Nibble} (hs : s.Inv) (hx : s.execState = .waitKey x) : (keyWaitStep x s).Inv := by
  cases hev : s.input.event with
  | none => rwa [keyWaitStep_of_none hev]
  | some k =>
    rw [keyWaitStep_of_event hev]
    exact hs.of_not_halt (by rw [hx]; exact nofun) hs.1 rfl nofun

/-- Settles O21: the end of a cycle moves no piece of the invariant, and each kind of step keeps it: a raise records a legal
FAULT of this PC, and every other effect keeps FAULT and the canonical memory. -/
theorem stepKeepsTheInvariant : Obligations.StepKeepsTheInvariant := by
  intro s t hs h
  obtain ⟨-, rfl⟩ | ⟨x, hx, rfl⟩ | ⟨-, hf, rfl⟩ | ⟨op, e, hx, -, -, rfl⟩ | ⟨op, i, u, hx, -, -, he, rfl⟩ := step_cases h
  · exact (inv_completeCycle none s).2 hs
  · exact (inv_completeCycle none _).2 (inv_keyWaitStep hs hx)
  · exact (inv_completeCycle none _).2 (inv_raise hs (fetchFault_legal hf))
  · exact (inv_completeCycle _ _).2 ((effect_skipUnrecognized s).inv hs (by rw [hx]; exact nofun))
  · exact (inv_completeCycle none u).2 ((effect_of_exec he).inv hs (by rw [hx]; exact nofun))

/-! ### The bound on PC -/

theorem pcBounded_completeCycle (d : Option Diag) (u : State) : (completeCycle d u).PcBounded ↔ u.PcBounded := by
  simp only [State.PcBounded, completeCycle_pc, completeCycle_execState, completeCycle_stackEntry]

/-- Where no wait stands and the stack is as it was, the bound is the one on PC. -/
theorem State.PcBounded.of_pc {s t : State} (hs : s.PcBounded) (hpc : t.pc.toNat ≤ 0x10FE)
    (hexec : ∀ x, t.execState ≠ .waitKey x) (hstack : ∀ k, t.stackEntry k = s.stackEntry k) : t.PcBounded :=
  ⟨hpc, fun x hx => absurd hx (hexec x), fun k => (hstack k).symm ▸ hs.2.2 k⟩

/-- From a PC that can be fetched from, PC + 2 is at most 0x1000 and PC + 4 at most 0x1002 (R23). -/
theorem pc_add_two_toNat_le {s : State} (hpc : s.pc.toNat + 1 < 4096) : (s.pc + 2).toNat ≤ 0x1000 := by
  bv_omega

theorem pc_add_four_toNat_le {s : State} (hpc : s.pc.toNat + 1 < 4096) : (s.pc + 4).toNat ≤ 0x1002 := by
  bv_omega

/-- An instruction run at a PC that can be fetched from keeps the bound: CALL and RET through the stack, FX0A by waiting in
place, a jump by its target, and every other one by PC + 2 or PC + 4. -/
theorem Effect.pcBounded {s t : State} {i : Instr} (h : Effect s i t) (hs : s.PcBounded) (hrun : s.execState = .run)
    (hpc : s.pc.toNat + 1 < 4096) : t.PcBounded := by
  have hnext : (s.pc + 2).toNat ≤ 0x1000 := pc_add_two_toNat_le hpc
  have hskip : (s.pc + 4).toNat ≤ 0x1002 := pc_add_four_toNat_le hpc
  have hnoWait (x : Nibble) : s.execState ≠ .waitKey x := by rw [hrun]; exact nofun
  cases h with
  | raise => exact hs.of_pc hs.1 nofun fun _ => rfl
  | skip _ c =>
    refine hs.of_pc ?_ hnoWait fun _ => rfl
    rw [skipIf_pc]
    split <;> omega
  | jump _ hw => exact hs.of_pc hw hnoWait fun _ => rfl
  | @call nnn u h =>
    refine ⟨?_, fun x hx => absurd hx ?_, fun k => ?_⟩
    · rw [setPc_pc, zextAddr_toNat]; omega
    · rw [setPc_execState, push_rest h]; exact hnoWait x
    · rw [setPc_stackEntry, push_stackEntry h]
      split
      · exact hnext
      · exact hs.2.2 k
  | @ret w u h =>
    obtain ⟨rfl, hrest⟩ := pop_some h
    rw [hrest]
    exact hs.of_pc ((hs.2.2 _).trans (by decide)) hnoWait fun _ => rfl
  | keyWait x => exact ⟨hs.1, fun _ _ => hpc, hs.2.2⟩
  | load x =>
    refine hs.of_pc ?_ (fun y => ?_) (loadRange_stackEntry s _)
    · rw [advance_pc, loadRange_pc]; omega
    · rw [advance_execState, loadRange_execState]; exact hnoWait y
  | _ => exact hs.of_pc (hnext.trans (by decide)) hnoWait fun _ => rfl

/-- A waiting FX0A stands at a PC that can be fetched from, and keeps the bound when the key comes. -/
theorem pcBounded_keyWaitStep {s : State} {x : Nibble} (hs : s.PcBounded) (hx : s.execState = .waitKey x) :
    (keyWaitStep x s).PcBounded := by
  cases hev : s.input.event with
  | none => rwa [keyWaitStep_of_none hev]
  | some k =>
    rw [keyWaitStep_of_event hev]
    exact hs.of_pc ((pc_add_two_toNat_le (hs.2.1 x hx)).trans (by decide)) nofun fun _ => rfl

/-- Settles O22: only a cycle that fetches or ends a wait moves PC, and both start at a PC whose two bytes lie in memory. -/
theorem stepKeepsThePcBound : Obligations.StepKeepsThePcBound := by
  intro s t hs h
  obtain ⟨-, rfl⟩ | ⟨x, hx, rfl⟩ | ⟨-, -, rfl⟩ | ⟨op, e, hx, hf, -, rfl⟩ | ⟨op, i, u, hx, hf, -, he, rfl⟩ := step_cases h
  · exact (pcBounded_completeCycle none s).2 hs
  · exact (pcBounded_completeCycle none _).2 (pcBounded_keyWaitStep hs hx)
  · exact (pcBounded_completeCycle none _).2 (hs.of_pc hs.1 nofun fun _ => rfl)
  · exact (pcBounded_completeCycle _ _).2 ((effect_skipUnrecognized s).pcBounded hs hx (pc_lt_of_fetchWord hf))
  · exact (pcBounded_completeCycle none u).2 ((effect_of_exec he).pcBounded hs hx (pc_lt_of_fetchWord hf))

end Sys2Proof.Machine

/-! Reset, the host's operations and the outputs (O16, O19, O20, O23, O55). -/

namespace Sys2Proof.Machine

/-! ### Memory after Reset -/

/-- Reset's memory is one range write of the font over a memory with nothing listed. -/
theorem ofFont_eq_writeRange (font : FontTable) :
    Memory.ofFont font = Memory.writeRange [] fontBase fontBytes fun b => font[b]?.getD 0 := by
  refine List.foldl_ext _ _ _ fun m b hb => ?_
  have hlt : b < 80 := List.mem_range.1 hb
  simp only [dif_pos hlt, getElem?_pos font b hlt, Option.getD_some]

/-- A font cell reads as FONT_TABLE's byte after Reset (R172). -/
theorem ofFont_read_font (font : FontTable) (b : Fin 80) : (Memory.ofFont font).read (0x050 + b.val) = font[b.val] := by
  have hread := read_writeRange_same [] fontBase fontBytes (fun b => font[b]?.getD 0) b.isLt (by decide)
  rw [ofFont_eq_writeRange]
  refine hread.trans ?_
  rw [getElem?_pos font b.val b.isLt, Option.getD_some]

/-- A cell outside the font reads as MEM_INIT after Reset (R173). -/
theorem ofFont_read_other (font : FontTable) {a : Nat} (ha : a < 0x050 ∨ 0x0A0 ≤ a) :
    (Memory.ofFont font).read a = Config.memInit a := by
  have hout : ¬ (fontBase ≤ a ∧ a < fontBase + fontBytes) := by unfold fontBase fontBytes; omega
  have hrange : ∀ k, k < fontBytes → a ≠ fontBase + k := by unfold fontBase fontBytes; omega
  rw [ofFont_eq_writeRange, read_writeRange_other _ _ _ _ hrange]
  simp only [Memory.read, Memory.find, Memory.unlisted, Memory.fixedByte, dif_neg hout, Option.getD_none]

/-- Settles O16: the fields of `State.reset` are R171's values, and memory is `Memory.ofFont`. -/
theorem resetGivesTheResetValues : Obligations.ResetGivesTheResetValues := by
  intro s font
  refine ⟨fun k => ?reg, rfl, rfl, fun k => ?stack, rfl, rfl, rfl, blank_pixel, rfl, rfl, rfl, ofFont_read_font font,
    fun a _ ha => ofFont_read_other font ha, rfl, rfl⟩
  case reg => exact Vector.getElem_replicate k.isLt
  case stack => exact Vector.getElem_replicate k.isLt

/-! ### The invariants at Reset and under the host's operations -/

theorem inv_resetWith (s : State) (font : FontTable) : (s.resetWith font).Inv :=
  ⟨ofFont_wf font, nofun, fun _ => rfl⟩

theorem pcBounded_resetWith (s : State) (font : FontTable) : (s.resetWith font).PcBounded := by
  refine ⟨show (0x0200#16).toNat ≤ 0x10FE by decide, nofun, fun k => ?_⟩
  rw [show (s.resetWith font).stackEntry k = 0 from Vector.getElem_replicate k.isLt]
  decide

/-- Settles O20: both invariants hold after any Reset, and the start state is Reset's with the default font. -/
theorem resetMeetsTheInvariants : Obligations.ResetMeetsTheInvariants :=
  ⟨resetWith_default ▸ inv_resetWith State.reset defaultFont, resetWith_default ▸ pcBounded_resetWith State.reset defaultFont,
    fun s font => ⟨inv_resetWith s font, pcBounded_resetWith s font⟩⟩

theorem clearDirty_sameExcept (s : State) : SameExcept (fun f => f = .dirty) s (clearDirty s) := by
  intro f hf
  cases f with
  | dirty => exact absurd rfl hf
  | _ => rfl

/-- Settles O19: ClearDirty is the update of one field. -/
theorem clearDirtyClearsOnlyDirty : Obligations.ClearDirtyClearsOnlyDirty := fun s => ⟨rfl, clearDirty_sameExcept s⟩

/-- A load that succeeds is one range write at 0x200. -/
theorem eq_of_loadProgram {s t : State} {rom : List Byte} (h : loadProgram rom s = .next t) :
    t = s.setMem (s.mem.writeRange Config.progBase rom.length fun k => rom.getD k 0) := by
  unfold loadProgram at h
  split_ifs at h
  exact (Host.Outcome.next.inj h).symm

/-- Settles O23: neither DIRTY nor the inputs stand in an invariant, and a load is a range write, which keeps memory canonical. -/
theorem hostOperationsKeepTheInvariants : Obligations.HostOperationsKeepTheInvariants := by
  intro s t rom c hinv hpc
  refine ⟨⟨hinv, hpc⟩, ⟨hinv, hpc⟩, fun h => ?load⟩
  case load =>
    rw [eq_of_loadProgram h]
    exact ⟨⟨writeRange_wf hinv.1 _ _ _, hinv.2⟩, hpc⟩

/-! ### The outputs -/

theorem status_of_run {s : State} (h : s.execState = .run) : s.status.kind = 0b00#2 ∧ s.status.x = 0 := by
  simp [State.status, h, execKind, execX]

theorem status_of_waitKey {s : State} {x : Nibble} (h : s.execState = .waitKey x) :
    s.status.kind = 0b01#2 ∧ s.status.x = x := by
  simp [State.status, h, execKind, execX]

theorem status_of_halt {s : State} (h : s.execState = .halt) : s.status.kind = 0b10#2 ∧ s.status.x = 0 := by
  simp [State.status, h, execKind, execX]

theorem status_code (s : State) : s.status.code = faultCodeBits s.fault.code := rfl

/-- Settles O55: STATUS is a reading of EXEC and FAULT, TONE one of ST, and the outputs carry the fields they name. -/
theorem statusAndToneReportTheState : Obligations.StatusAndToneReportTheState := by
  intro s
  have hcode {c : FaultCode} (h : s.fault.code = c) : s.status.code = faultCodeBits c := h ▸ status_code s
  exact ⟨status_of_run, fun _ => status_of_waitKey, status_of_halt, hcode, hcode, hcode, hcode, hcode, hcode,
    rfl, rfl, rfl, decide_eq_true_iff, rfl, rfl, rfl, rfl, rfl, fun _ _ => rfl⟩

end Sys2Proof.Machine

/-! The draw (O38, O39): a sprite as the disjoint union of its cells, each XORed onto the framebuffer once. -/

namespace Sys2Proof.Machine

/-! ### What it is to draw a set of cells -/

/-- `q` is `p` with the cells XORed onto the framebuffer, and with a collision recorded where a cell was set in `p`. -/
def Drawn (cells : BitVec 6 → BitVec 5 → Bool) (p q : Framebuffer × Bool) : Prop :=
  (∀ c r, Framebuffer.pixel q.1 c r = (Framebuffer.pixel p.1 c r ^^ cells c r)) ∧
  (q.2 = true ↔ p.2 = true ∨ ∃ c r, Framebuffer.pixel p.1 c r = true ∧ cells c r = true)

theorem Drawn.congr {a b : BitVec 6 → BitVec 5 → Bool} {p q : Framebuffer × Bool} (h : Drawn a p q)
    (hab : ∀ c r, b c r = a c r) : Drawn b p q := by
  obtain rfl : b = a := funext fun c => funext (hab c)
  exact h

theorem drawn_nothing (p : Framebuffer × Bool) : Drawn (fun _ _ => false) p p := by
  simp [Drawn]

/-- Two drawings that share no cell make one drawing of both: the second meets its cells as the first found them. -/
theorem Drawn.trans {a b : BitVec 6 → BitVec 5 → Bool} {p q t : Framebuffer × Bool} (hpq : Drawn a p q) (hqt : Drawn b q t)
    (hdisjoint : ∀ c r, b c r = true → a c r = false) : Drawn (fun c r => a c r || b c r) p t := by
  obtain ⟨hpixel, hflag⟩ := hpq
  obtain ⟨hpixel', hflag'⟩ := hqt
  refine ⟨fun c r => ?pixel, ?flag⟩
  case pixel =>
    rw [hpixel', hpixel]
    cases hb : b c r with
    | false => simp [hb]
    | true => simp [hb, hdisjoint c r hb]
  case flag =>
    have hmeets (c : BitVec 6) (r : BitVec 5) (hb : b c r = true) :
        Framebuffer.pixel q.1 c r = Framebuffer.pixel p.1 c r := by
      rw [hpixel, hdisjoint c r hb, Bool.xor_false]
    rw [hflag', hflag, or_assoc]
    refine or_congr_right ⟨?_, ?_⟩
    · rintro (⟨c, r, hp, ha⟩ | ⟨c, r, hq, hb⟩)
      · exact ⟨c, r, hp, by simp [ha]⟩
      · exact ⟨c, r, hmeets c r hb ▸ hq, by simp [hb]⟩
    · rintro ⟨c, r, hp, hab⟩
      obtain ha | hb := Bool.or_eq_true_iff.1 hab
      · exact .inl ⟨c, r, hp, ha⟩
      · exact .inr ⟨c, r, (hmeets c r hb).trans hp, hb⟩

/-! ### The place of a cell in the sprite -/

/-- How many columns `c` lies to the right of the sprite's left edge, around the edge of the display (R114). -/
def spriteColumn (vx : Byte) (c : BitVec 6) : Nat := (c - vx.setWidth 6).toNat

/-- How many rows `r` lies below the sprite's upper edge, around the edge of the display (R114). -/
def spriteRow (vy : Byte) (r : BitVec 5) : Nat := (r - vy.setWidth 5).toNat

/-- A sprite is narrower than the display, so its column k covers one column of the display. -/
theorem eq_pixelColumn_iff (vx : Byte) (c : BitVec 6) {k : Nat} (hk : k < 64) :
    c = pixelColumn vx k ↔ spriteColumn vx c = k := by
  unfold pixelColumn spriteColumn
  bv_omega

/-- A sprite is lower than the display, so its row k covers one row of the display. -/
theorem eq_pixelRow_iff (vy : Byte) (r : BitVec 5) {k : Nat} (hk : k < 32) :
    r = pixelRow vy k ↔ spriteRow vy r = k := by
  unfold pixelRow spriteRow
  bv_omega

/-! ### One cell, one row, the whole sprite -/

theorem drawCell_drawn (b vx vy : Byte) (r : Nat) (p : Framebuffer × Bool) (k : Nat) :
    Drawn (fun c' r' => spriteBit b k && decide (c' = pixelColumn vx k ∧ r' = pixelRow vy r)) p (drawCell b vx vy r p k) := by
  cases hbit : spriteBit b k with
  | false => simpa [drawCell, hbit] using drawn_nothing p
  | true =>
    simp only [drawCell, hbit, if_true, Bool.true_and]
    refine ⟨fun c' r' => toggle_pixel _ _ _ _ _, ?_⟩
    simp only [Bool.or_eq_true, decide_eq_true_eq]
    refine or_congr_right ⟨fun h => ⟨_, _, h, rfl, rfl⟩, ?_⟩
    rintro ⟨_, _, h, rfl, rfl⟩
    exact h

/-- The cells of the first `m` columns of row `r` of a sprite. -/
def rowCells (b vx vy : Byte) (r m : Nat) (c' : BitVec 6) (r' : BitVec 5) : Bool :=
  decide (spriteColumn vx c' < m) && spriteBit b (spriteColumn vx c') && decide (r' = pixelRow vy r)

/-- Columns 0 to m - 1 of a row, by induction on m: a further column covers a cell that none before it covers. -/
theorem drawRow_columns_drawn (b vx vy : Byte) (r : Nat) (p : Framebuffer × Bool) {m : Nat} (hm : m ≤ 64) :
    Drawn (rowCells b vx vy r m) p ((List.range m).foldl (drawCell b vx vy r) p) := by
  induction m with
  | zero => exact (drawn_nothing p).congr fun c' r' => by simp [rowCells]
  | succ m ih =>
    rw [List.range_succ, List.foldl_append, List.foldl_cons, List.foldl_nil]
    have hcolumn (c' : BitVec 6) : c' = pixelColumn vx m ↔ spriteColumn vx c' = m := eq_pixelColumn_iff vx c' (by omega)
    refine ((ih (by omega)).trans (drawCell_drawn b vx vy r _ m) ?disjoint).congr ?union
    case disjoint =>
      intro c' r' h
      simp only [Bool.and_eq_true, decide_eq_true_eq, hcolumn] at h
      simp [rowCells, h.2.1]
    case union =>
      intro c' r'
      simp only [rowCells, hcolumn]
      by_cases hc : spriteColumn vx c' = m
      · simp [hc]
      · have hlt : spriteColumn vx c' < m + 1 ↔ spriteColumn vx c' < m := by omega
        simp [hc, hlt]

theorem drawRow_drawn (b vx vy : Byte) (p : Framebuffer × Bool) (r : Nat) :
    Drawn (rowCells b vx vy r 8) p (drawRow b vx vy p r) :=
  drawRow_columns_drawn b vx vy r p (by decide)

/-- The cells of the first `m` rows of the sprite at I, drawn at (vx, vy). -/
def State.spriteCells (s : State) (vx vy : Byte) (m : Nat) (c : BitVec 6) (r : BitVec 5) : Bool :=
  decide (spriteColumn vx c < 8) && decide (spriteRow vy r < m) &&
    spriteBit (s.byte (s.i.toNat + spriteRow vy r)) (spriteColumn vx c)

/-- Rows 0 to m - 1 of a sprite, by induction on m: a further row covers cells that none before it covers. -/
theorem drawSprite_drawn (s : State) (vx vy : Byte) {m : Nat} (hm : m ≤ 32) :
    Drawn (s.spriteCells vx vy m) (s.fb, false) (s.drawSprite vx vy m) := by
  unfold State.drawSprite
  induction m with
  | zero => exact (drawn_nothing _).congr fun c r => by simp [State.spriteCells]
  | succ m ih =>
    rw [List.range_succ, List.foldl_append, List.foldl_cons, List.foldl_nil]
    have hrow (r : BitVec 5) : r = pixelRow vy m ↔ spriteRow vy r = m := eq_pixelRow_iff vy r (by omega)
    refine ((ih (by omega)).trans (drawRow_drawn _ vx vy _ m) ?disjoint).congr ?union
    case disjoint =>
      intro c r h
      simp only [rowCells, Bool.and_eq_true, decide_eq_true_eq, hrow] at h
      simp [State.spriteCells, h.2]
    case union =>
      intro c r
      simp only [State.spriteCells, rowCells, State.effAddr, hrow]
      by_cases hr : spriteRow vy r = m
      · simp [hr]
      · have hlt : spriteRow vy r < m + 1 ↔ spriteRow vy r < m := by omega
        simp [hr, hlt]

/-- The sprite DXYN draws covers exactly the cells of `spriteCell`. -/
theorem drawSprite_drawn_spriteCell (s : State) (x y n : Nibble) :
    Drawn (s.spriteCell x y n) (s.fb, false) (s.drawSprite (s.reg x) (s.reg y) n.toNat) :=
  drawSprite_drawn s (s.reg x) (s.reg y) (by omega)

/-! ### DXYN -/

theorem drawEffect_pixel (x y n : Nibble) (s : State) (c : BitVec 6) (r : BitVec 5) :
    (drawEffect x y n s).pixel c r = (s.pixel c r ^^ s.spriteCell x y n c r) :=
  (drawSprite_drawn_spriteCell s x y n).1 c r

theorem drawEffect_reg_vf (x y n : Nibble) (s : State) :
    (drawEffect x y n s).reg vf = flagByte (s.drawSprite (s.reg x) (s.reg y) n.toNat).2 :=
  setReg_reg_same _ vf _

/-- The collision flag is set exactly when a set cell is covered. -/
theorem drawSprite_collides_iff (x y n : Nibble) (s : State) :
    (s.drawSprite (s.reg x) (s.reg y) n.toNat).2 = true ↔
      ∃ c r, s.pixel c r = true ∧ s.spriteCell x y n c r = true :=
  (drawSprite_drawn_spriteCell s x y n).2.trans (or_iff_right nofun)

/-- Settles O38: the sprite's cells are XORed once each, and the flag written to VF last is the collision. -/
theorem drawXorsTheSprite : Obligations.DrawXorsTheSprite := by
  intro s x y n hin
  refine ⟨_, exec_transfer_of_inMemory (exec_drw x y n s) hin, drawEffect_pixel x y n s, fun hmeet => ?set, fun hmeet => ?clear,
    rfl, rfl, ?frame⟩
  case set => exact (drawEffect_reg_vf x y n s).trans (congrArg flagByte ((drawSprite_collides_iff x y n s).2 hmeet))
  case clear =>
    have hflag : (s.drawSprite (s.reg x) (s.reg y) n.toNat).2 = false :=
      Bool.eq_false_iff.2 (mt (drawSprite_collides_iff x y n s).1 hmeet)
    exact (drawEffect_reg_vf x y n s).trans (congrArg flagByte hflag)
  case frame =>
    exact drawEffect_sameExcept (fun c r => .inl ⟨c, r, rfl⟩) (.inr (.inl rfl)) (.inr (.inr (.inl rfl)))
      (.inr (.inr (.inr rfl))) x y n s

/-- The sprite's cells depend on I, on the two coordinates and on memory alone. -/
theorem spriteCell_congr {s t : State} {x y : Nibble} (hi : t.i = s.i) (hbyte : ∀ a, t.byte a = s.byte a)
    (hx : t.reg x = s.reg x) (hy : t.reg y = s.reg y) (n : Nibble) : t.spriteCell x y n = s.spriteCell x y n := by
  funext c r
  simp only [State.spriteCell, hi, hbyte, hx, hy]

/-- Settles O39: the second draw (O38) XORs the same cells again, and meets as set the covered cells that were clear before. -/
theorem drawTwiceRestoresTheFramebuffer : Obligations.DrawTwiceRestoresTheFramebuffer := by
  intro s x y n hin
  obtain ⟨t, ht, hpixel, -, -, -, -, hframe⟩ := drawXorsTheSprite s x y n hin
  refine ⟨t, ht, fun hx hy => ?_⟩
  have hi : t.i = s.i := hframe.i_eq (by simp)
  have hcells : t.spriteCell x y n = s.spriteCell x y n :=
    spriteCell_congr hi (fun a => hframe (.byte a) (by simp)) hx hy n
  obtain ⟨u, hu, hpixel', hset, hclear, -⟩ := drawXorsTheSprite t x y n ((inMemory_congr hi _).2 hin)
  have hmeets : (∃ c r, t.pixel c r = true ∧ t.spriteCell x y n c r = true) ↔
      ∃ c r, s.pixel c r = false ∧ s.spriteCell x y n c r = true := by
    rw [hcells]
    refine exists_congr fun c => exists_congr fun r => and_congr_left fun hcell => ?_
    rw [hpixel, hcell, Bool.xor_true, Bool.not_eq_true']
  refine ⟨u, hu, fun c r => ?restored, fun hone => ?met, fun hmet => hset (hmeets.2 hmet)⟩
  case restored => rw [hpixel', hcells, hpixel, Bool.xor_assoc, Bool.xor_self, Bool.xor_false]
  case met =>
    refine hmeets.1 (by_contra fun hnot => ?_)
    rw [hclear hnot] at hone
    cases hone

end Sys2Proof.Machine
